-- ==== Sys2Proof/Word.lean ====
section
/-! DEFINITION. The plain data the block moves: bits, bit strings and sample numbers (spec 00_scope.md R5, R6).
The block is no word machine: an event carries a bit string of any length, so the "word" here is a list of bits. -/

namespace Sys2Proof

/-- A bit string (R6): a finite sequence of bits, position 0 leftmost, most significant, shifted last. -/
abbrev Bits := List Bool

/-- A sample number, `SAMPLE` of R5: an unbounded natural number (spec decision D22; log entry 9). -/
abbrev Sample := Nat

/-- The `(start, end)` pair of one bit (R11, R40). Nothing is required of its order (R41). -/
abbrev SampleRange := Sample × Sample

end Sys2Proof
end

