-- ==== Sys2Proof/Syntax.lean ====
section
/-! DEFINITION. The names and shapes of everything the spec names: the selected register, the events, the
operations (`Instr`: one constructor for every mnemonic of the opcode table), the records, and the encoded
form (`Packet`) from which an operation is decoded. No meaning stands here. -/

namespace Sys2Proof

/-- The register-select state `sel` (R10): one of five names. Its 3-bit codes are `Sel.code` in Decode.lean. -/
inductive Sel where
  | idle | bypass | idcode | pdicom | unknown
deriving DecidableEq, Repr

/-- The register names an IR event can select (R21, R50): what `IRMAP` answers. IDLE is not one of them. -/
inductive RegName where
  | idcode | pdicom | bypass | unknown
deriving DecidableEq, Repr

/-- The three names the shorthand `SELECT` takes (R55). -/
inductive Selectable where
  | idcode | pdicom | bypass
deriving DecidableEq, Repr

/-- The two directions of a data-register shift (R8, R9): `toDevice` is DR_TDI, `toHost` is DR_TDO. -/
inductive Direction where
  | toDevice | toHost
deriving DecidableEq, Repr

/-- The four event kinds (R40). -/
inductive Kind where
  | notify | ir | drTdi | drTdo
deriving DecidableEq, Repr

/-- The payload of an event (R40): `bits` most significant first, `rangesRaw` first-shifted bit first, and the
bounds `ss`, `es` of the whole event. -/
structure Shift where
  bits : Bits
  rangesRaw : List SampleRange
  ss : Sample
  es : Sample
deriving DecidableEq, Repr

/-- One event of the upstream stream (R40); a notification carries nothing. -/
inductive Event where
  | notify
  | ir (p : Shift)
  | drTdi (p : Shift)
  | drTdo (p : Shift)
deriving DecidableEq, Repr

/-- One entry of the input stream, as R54 writes them one a line: an event, the reset between two events (R135),
the two shorthands (R55), and a frame handed straight to the frame extractor (component 2 of R1; log entry 4). -/
inductive Item where
  | event (e : Event)
  | reset
  | select (name : Selectable) (rangesRaw : List SampleRange) (ss es : Sample)
  | shiftDr (tdi : Shift) (tdo : Bits)
  | frame (dir : Direction) (p : Shift)
deriving DecidableEq, Repr

/-- The operations: one constructor for every mnemonic of spec/opcode_table.json (the thirteen prefix rows and the
short-payload row of `IR.UNKNOWN` are one operation with the payload as operand, R66). -/
inductive Instr where
  | notify                                        -- NOTIFY, R61
  | irIdcode (p : Shift)                          -- IR.IDCODE, R63
  | irPdicom (p : Shift)                          -- IR.PDICOM, R64
  | irBypass (p : Shift)                          -- IR.BYPASS, R65
  | irUnknown (p : Shift)                         -- IR.UNKNOWN, R66
  | drTdiIdle (p : Shift)                         -- DR_TDI.IDLE, R67
  | drTdoIdle (p : Shift)                         -- DR_TDO.IDLE, R68
  | drTdiBypass (p : Shift)                       -- DR_TDI.BYPASS, R69
  | drTdoBypass (p : Shift)                       -- DR_TDO.BYPASS, R70
  | drTdiIdcode (p : Shift)                       -- DR_TDI.IDCODE, R71
  | drTdoIdcode (p : Shift)                       -- DR_TDO.IDCODE, R72
  | drTdiPdicom (p : Shift)                       -- DR_TDI.PDICOM, R73
  | drTdoPdicom (p : Shift)                       -- DR_TDO.PDICOM, R74
  | drTdiUnknown (p : Shift)                      -- DR_TDI.UNKNOWN, R75
  | drTdoUnknown (p : Shift)                      -- DR_TDO.UNKNOWN, R76
  | pdiMalformed (dir : Direction) (p : Shift)    -- PDI.MALFORMED, R90
  | pdiBreak (dir : Direction) (p : Shift)        -- PDI.BREAK, R94
  | pdiDelay (dir : Direction) (p : Shift)        -- PDI.DELAY, R94
  | pdiEmpty (dir : Direction) (p : Shift)        -- PDI.EMPTY, R94
  | pdiData (dir : Direction) (p : Shift)         -- PDI.DATA, R93
  | pdiInvalid (dir : Direction) (p : Shift)      -- PDI.INVALID, R94
  | select (name : Selectable) (rangesRaw : List SampleRange) (ss es : Sample)   -- SELECT, R55
  | shiftDr (tdi : Shift) (tdo : Bits)            -- SHIFT_DR, R55
  | reset                                         -- RESET, R135
deriving DecidableEq, Repr

/-- The operations that a dispatch key selects (the K rows of the opcode table, R42). -/
inductive KOp where
  | notify
  | irIdcode | irPdicom | irBypass | irUnknown
  | drTdiIdle | drTdoIdle | drTdiBypass | drTdoBypass | drTdiIdcode | drTdoIdcode
  | drTdiPdicom | drTdoPdicom | drTdiUnknown | drTdoUnknown
deriving DecidableEq, Repr

/-- The classes of a PDI frame (R47, R90): the F rows of the opcode table. -/
inductive FrameClass where
  | malformed | data | brk | delay | empty | invalid
deriving DecidableEq, Repr

/-- The labels of the special-character table (R24): BREAK, DELAY, EMPTY, INVALID. -/
inductive Special where
  | brk | delay | empty | invalid
deriving DecidableEq, Repr

/-- The record categories, in the order of R48. -/
inductive Category where
  | item | field | command | warning
  | dataIn | parityInOk | parityInErr
  | dataOut | parityOutOk | parityOutErr
  | brk | opcode | dataProg | dataDev | pdiBreak | enable | disable | cmdData
deriving DecidableEq, Repr

/-- The payload kinds of a record (R50). -/
inductive Payload where
  | sel (name : RegName)
  | bits (b : Bits)
  | reserved
  | manuf (m : BitVec 11)
  | part (p : BitVec 16)
  | version (v : BitVec 4)
  | idcode (w : BitVec 32)
  | idcodeCmd (w : BitVec 32)
  | pdicom
  | byte (d : BitVec 8)
  | parity (ok : Bool)
  | special (c : Special)
  | malformedShift (n : Nat)
deriving DecidableEq, Repr

/-- A record (R49): two sample numbers, a category and a structured payload. -/
structure Record where
  ss : Sample
  es : Sample
  cat : Category
  payload : Payload
deriving DecidableEq, Repr

/-- The frame result `pdi` (R98): direction, data byte, parity verdict. -/
structure PdiResult where
  dir : Direction
  data : BitVec 8
  ok : Bool
deriving DecidableEq, Repr

/-- The "format" column of the opcode table: dispatch key, frame, shorthand, or none (RESET). -/
inductive Format where
  | k | f | pseudo | none
deriving DecidableEq, Repr

/-- An operation in encoded form: the table's word (`K`, or `F` in its low nine bits) with the payload that goes
with it. `dir` is read for frames only, `tdo` for SHIFT_DR only. -/
structure Packet where
  format : Format
  code : BitVec 10
  dir : Direction
  shift : Shift
  tdo : Bits
deriving DecidableEq, Repr

/-- Why an encoded operation is rejected. None of them can arise from a well-formed entry of the stream. -/
inductive DecodeError where
  /-- The key matches no row: a DR kind with one of the `sel` codes 101, 110, 111 that are never held (R10, R52). -/
  | unassignedKey
  /-- The range list is not as long as the bit string: not well formed (R41, decision D21). -/
  | unpairedRanges
  /-- The key's `short` or `ir4` field is not the one its payload gives (R42). -/
  | keyMismatch
  /-- A notification with a payload; it has a kind only (R40). -/
  | strayPayload
  /-- The 9-bit frame value is not that of the frame's bits (R46). -/
  | frameMismatch
  /-- A SELECT of an opcode that is none of the three names, or whose payload is not that opcode (R55). -/
  | notSelectable
  /-- A SHIFT_DR whose two payloads have different lengths: they share one range list (R55, R41). -/
  | unequalShifts
deriving DecidableEq, Repr

end Sys2Proof
end

