-- ==== Sys2Proof/Config.lean ====
section
/-! DEFINITION. The values the block fixes (R5) and the parameters the spec leaves open (R5, R23, R100, R102;
decisions D9, D18, D19). The open ones are opaque constants without a body: no proof can see a value of them. -/

namespace Sys2Proof

/-- The IR opcode is the first 4 bits of an IR payload (R5, R29). -/
def Config.irOpcodeWidth : Nat := 4

/-- The IDCODE register is 32 bits wide (R5, R21). -/
def Config.idcodeWidth : Nat := 32

/-- The PDICOM register, one PDI frame, is 9 bits wide (R5, R28). -/
def Config.frameWidth : Nat := 9

/-- OPEN (`PART_TABLE`, R23, D18; log entry 7): the keys of the three rows the source does not give, before
`Machine.partTable` makes them distinct. -/
opaque Config.otherPartKey : Fin 3 → BitVec 16

/-- OPEN (`PART_TABLE`, R23, D18; log entry 7): the names of the three rows the source does not give. -/
opaque Config.otherPartName : Fin 3 → String

/-- OPEN (`IR_LABEL`, R102, D9; log entry 8): the text before the register name in the IR record's label. -/
opaque Config.irLabelBefore : RegName → String

/-- OPEN (`IR_LABEL`, R102, D9; log entry 8): the text after the register name in the IR record's label. -/
opaque Config.irLabelAfter : RegName → String

/-- OPEN (`SHORT_LABELS`, R100, D19; log entry 8): the short label of a record. -/
opaque Config.shortLabel : Category → Payload → String

/-- OPEN (`SHORT_LABELS`, R100, D19; log entry 8): the optional terse label of a record. -/
opaque Config.terseLabel : Category → Payload → Option String

end Sys2Proof
end

