-- ==== Sys2Proof/Machine/Operands.lean ====
section
/-! DEFINITION. The operand forms: the value of a bit string and its substrings (R6, R7), the pairing of bits and
sample ranges (R26, R51), and the fields of the three payload layouts (IR R44, IDCODE R45, PDI frame R46). -/

namespace Sys2Proof

/-- `val(b)` (R6): the unsigned integer the string spells, position 0 most significant; 0 for the empty string. -/
def val (b : Bits) : Nat :=
  b.foldl (fun acc x => 2 * acc + x.toNat) 0

/-- `b[a:e]` (R6): positions `a` to `e-1`; it stops at the end of the string where `e` exceeds its length. -/
def slice (a e : Nat) (b : Bits) : Bits :=
  (b.drop a).take (e - a)

/-- `bin_n(v)` (R86, R99): the `n`-bit string of the value `v`, the inverse of `val` on `n`-bit strings. -/
def bin (n v : Nat) : Bits :=
  (List.range n).map fun p => v.testBit (n - 1 - p)

/-- `popcount(b)`: the number of 1 bits. -/
def popcount (b : Bits) : Nat :=
  b.count true

namespace Shift

/-- The payload of an event that carries none. -/
def none : Shift := ⟨[], [], 0, 0⟩

/-- One range per bit (R41): the event is well formed. -/
def paired (p : Shift) : Bool :=
  p.rangesRaw.length == p.bits.length

end Shift

/-- The range list in string order (R11, R26): the delivered list reversed, so that index `p` is position `p`. -/
def inStringOrder (rangesRaw : List SampleRange) : List SampleRange :=
  rangesRaw.reverse

/-- `span(a, e)` (R51, decision D8): earliest start and latest end over positions `a` to `e`. The value on an
empty selection, `(0, 0)`, is outside the domain R51 gives and is never asked for (log entry 11). -/
def span (ranges : List SampleRange) (a e : Nat) : SampleRange :=
  match (ranges.drop a).take (e + 1 - a) with
  | [] => (0, 0)
  | r :: rs => rs.foldl (fun acc q => (min acc.1 q.1, max acc.2 q.2)) r

/-! ## The IR payload -/

/-- The opcode field of an IR payload, `v[0:4]` (R29, R44): shorter than 4 when the payload is. -/
def irOpcode (v : Bits) : Bits :=
  slice 0 Config.irOpcodeWidth v

/-! ## The IDCODE payload -/

/-- The four fields of an IDCODE word (R45). -/
structure IdcodeFields where
  reserved : Bool
  manufacturer : BitVec 11
  part : BitVec 16
  version : BitVec 4
deriving DecidableEq, Repr

/-- `w = val(b)`, the 32-bit word (R81). -/
def idcodeWord (b : Bits) : BitVec 32 :=
  BitVec.ofNat 32 (val b)

/-- Field extraction by string positions (R45, R81; decision D6): reserved 0, manufacturer 1 to 11, part 12 to 27,
version 28 to 31. -/
def idcodeFields (b : Bits) : IdcodeFields where
  reserved := b.getD 0 false
  manufacturer := BitVec.ofNat 11 (val (slice 1 12 b))
  part := BitVec.ofNat 16 (val (slice 12 28 b))
  version := BitVec.ofNat 4 (val (slice 28 32 b))

/-- The same fields taken from the word by value bits (R45, R108): 31, 30:20, 19:4, 3:0. -/
def wordFields (w : BitVec 32) : IdcodeFields where
  reserved := w.getLsbD 31
  manufacturer := w.extractLsb' 20 11
  part := w.extractLsb' 4 16
  version := w.extractLsb' 0 4

/-- The construction of R86: reserved(1) ++ manufacturer(11) ++ part(16) ++ version(4). -/
def assembleIdcode (f : IdcodeFields) : Bits :=
  f.reserved :: (bin 11 f.manufacturer.toNat ++ bin 16 f.part.toNat ++ bin 4 f.version.toNat)

/-! ## The PDI frame -/

/-- The parity bit, `frame[0]` (R46, R91). -/
def framePar (frame : Bits) : Bool :=
  frame.getD 0 false

/-- The data bits, positions 1 to 8 (R46, R91). -/
def frameData (frame : Bits) : Bits :=
  slice 1 9 frame

/-- `data_byte`, the value of the data bits, most significant first (R46, R91). -/
def frameByte (frame : Bits) : BitVec 8 :=
  BitVec.ofNat 8 (val (frameData frame))

end Sys2Proof
end

