-- ==== Sys2Proof/Machine/Tables.lean ====
section
/-! DEFINITION. The four read-only lookup tables (R14, R20 to R24): the block's address spaces. They are constants;
each is a total function of its key. -/

namespace Sys2Proof

/-- `sel` after an IR event that selected `name` (R62). -/
def RegName.toSel : RegName → Sel
  | .idcode => .idcode
  | .pdicom => .pdicom
  | .bypass => .bypass
  | .unknown => .unknown

/-- The register a SELECT names (R55). -/
def Selectable.toRegName : Selectable → RegName
  | .idcode => .idcode
  | .pdicom => .pdicom
  | .bypass => .bypass

/-- The 4-bit opcode of a name (R44, R55). -/
def Selectable.opcode : Selectable → Bits
  | .idcode => [false, false, true, true]
  | .pdicom => [false, true, true, true]
  | .bypass => [true, true, true, true]

namespace Machine

/-- `IRMAP` (R21): register name and width by the four opcode bits. A key of another length matches no row
(R29, decision D10). -/
def irMap (k : Bits) : RegName × Nat :=
  if k = [false, false, true, true] then (.idcode, 32)
  else if k = [false, true, true, true] then (.pdicom, 9)
  else if k = [true, true, true, true] then (.bypass, 1)
  else (.unknown, 0)

/-- The register an IR payload selects (R62): `IRMAP` of its first four bits, UNKNOWN for a shorter payload. -/
def irName (v : Bits) : RegName :=
  if (irOpcode v).length = 4 then (irMap (irOpcode v)).1 else .unknown

/-- `MANUF` (R22): the whole 11-bit field is the key; only 0x01F is assigned. -/
def manufName (m : BitVec 11) : String :=
  if m = 0x01F#11 then "Atmel" else "INVALID"

/-- The first of `seed`, `seed+1`, `seed+2`, `seed+3` that is not among `used`: with at most three used keys there
is one, and a seed that is not used stays as it is, so every choice of distinct keys can be had. -/
def freshKey (used : List (BitVec 16)) (seed : BitVec 16) : BitVec 16 :=
  (([0#16, 1#16, 2#16, 3#16].map (seed + ·)).find? fun k => !used.contains k).getD seed

/-- The key the source gives (R23). -/
def knownPartKey : BitVec 16 := 0x9642#16

/-- The second key of `PART_TABLE`: open, but none of the keys before it (R23). -/
def partKey1 : BitVec 16 := freshKey [knownPartKey] (Config.otherPartKey 0)

/-- The third key of `PART_TABLE`: open, but none of the keys before it (R23). -/
def partKey2 : BitVec 16 := freshKey [knownPartKey, partKey1] (Config.otherPartKey 1)

/-- The fourth key of `PART_TABLE`: open, but none of the keys before it (R23). -/
def partKey3 : BitVec 16 := freshKey [knownPartKey, partKey1, partKey2] (Config.otherPartKey 2)

/-- `PART_TABLE` (R23, decision D18; log entry 7): exactly four distinct keys, 0x9642 among them; the other three
rows are open. -/
def partTable : List (BitVec 16 × String) :=
  [(knownPartKey, "ATXMega64A3U"), (partKey1, Config.otherPartName 0),
   (partKey2, Config.otherPartName 1), (partKey3, Config.otherPartName 2)]

/-- `PART` (R23): a name, or nothing for a key outside the table. -/
def partLookup (p : BitVec 16) : Option String :=
  partTable.lookup p

/-- `SPECIAL` (R24): total, 253 of the 256 keys give INVALID. -/
def specialOf (d : BitVec 8) : Special :=
  if d = 0xBB#8 then .brk
  else if d = 0xDB#8 then .delay
  else if d = 0xEB#8 then .empty
  else .invalid

end Machine
end Sys2Proof
end

