-- ==== Sys2Proof/Machine/Flags.lean ====
section
/-! DEFINITION. The one condition the block computes, `parity_ok` (R17, R92), and what is chosen by it: the parity
category (R93) and the class of a frame (R47). -/

namespace Sys2Proof.Machine

/-- `parity_ok` (R92): the ones among the data bits plus the parity bit are even. One fixed policy, no mode. -/
def parityOk (par : Bool) (data : Bits) : Bool :=
  (popcount data + par.toNat) % 2 == 0

/-- `parity_ok` of a 9-bit frame (R91, R92). -/
def frameOk (frame : Bits) : Bool :=
  parityOk (framePar frame) (frameData frame)

/-- `parity_cat(dir, ok)` (42_pdi_frame.md, R93): four categories. -/
def parityCat : Direction → Bool → Category
  | .toDevice, true => .parityInOk
  | .toDevice, false => .parityInErr
  | .toHost, true => .parityOutOk
  | .toHost, false => .parityOutErr

/-- The category of the data record by direction (R9, R93). -/
def dataCat : Direction → Category
  | .toDevice => .dataIn
  | .toHost => .dataOut

/-- The category of the special-character record by direction (R9, R94). -/
def specialCat : Direction → Category
  | .toDevice => .dataProg
  | .toHost => .dataDev

/-- The class an invalid-parity frame falls in, by the label of its byte (R47). -/
def classOfSpecial : Special → FrameClass
  | .brk => .brk
  | .delay => .delay
  | .empty => .empty
  | .invalid => .invalid

/-- The class of a frame (R47, R90): the "cond" column of the opcode table's F rows. The length is looked at
first (R28, R144). -/
def frameClass (frame : Bits) : FrameClass :=
  if frame.length ≠ Config.frameWidth then .malformed
  else if frameOk frame then .data
  else classOfSpecial (specialOf (frameByte frame))

end Sys2Proof.Machine
end

