-- ==== Sys2Proof/WellFormed.lean ====
section
/-! DEFINITION. Which events, stream entries and operations are well formed: one sample range per bit (R41), and
for an operation the operand that its row of the opcode table asks for. -/

namespace Sys2Proof

/-- The payload of an event; a notification has none (R40). -/
def Event.shift : Event → Shift
  | .notify => Shift.none
  | .ir p | .drTdi p | .drTdo p => p

/-- R41: an event is well formed when its range list is as long as its bit string. -/
def Event.wf (e : Event) : Bool :=
  e.shift.paired

/-- A stream entry is well formed when the events it stands for are (R41, R55). -/
def Item.wf : Item → Bool
  | .event e => e.wf
  | .reset => true
  | .select _ rangesRaw _ _ => rangesRaw.length == 4
  | .shiftDr tdi tdo => tdi.paired && tdo.length == tdi.bits.length
  | .frame _ p => p.paired

/-- An operation is well formed when its payload is (R41) and is one its opcode-table row takes: the opcode bits of
an IR operation (R63 to R66), the class of a frame (R47, R90), the lengths of a shorthand (R55). -/
def Instr.wf : Instr → Bool
  | .notify => true
  | .irIdcode p => p.paired && Machine.irName p.bits == .idcode
  | .irPdicom p => p.paired && Machine.irName p.bits == .pdicom
  | .irBypass p => p.paired && Machine.irName p.bits == .bypass
  | .irUnknown p => p.paired && Machine.irName p.bits == .unknown
  | .drTdiIdle p | .drTdoIdle p | .drTdiBypass p | .drTdoBypass p | .drTdiIdcode p | .drTdoIdcode p
  | .drTdiPdicom p | .drTdoPdicom p | .drTdiUnknown p | .drTdoUnknown p => p.paired
  | .pdiMalformed _ p => p.paired && Machine.frameClass p.bits == .malformed
  | .pdiBreak _ p => p.paired && Machine.frameClass p.bits == .brk
  | .pdiDelay _ p => p.paired && Machine.frameClass p.bits == .delay
  | .pdiEmpty _ p => p.paired && Machine.frameClass p.bits == .empty
  | .pdiData _ p => p.paired && Machine.frameClass p.bits == .data
  | .pdiInvalid _ p => p.paired && Machine.frameClass p.bits == .invalid
  | .select _ rangesRaw _ _ => rangesRaw.length == 4
  | .shiftDr tdi tdo => tdi.paired && tdo.length == tdi.bits.length
  | .reset => true

end Sys2Proof
end

