-- ==== Sys2Proof/Decode.lean ====
section
/-! DEFINITION. The codes of the kinds and of `sel` (R10, R40), the dispatch key (R42), the decoder of an encoded
operation, total and rejecting by name, and after it the encoder, both written from the tables of
30_encoding.md R42 and spec/opcode_table.json. -/

namespace Sys2Proof

/-! ## Codes -/

/-- `kind[1:0]` (R40, decision D2). -/
def Kind.code : Kind → BitVec 2
  | .notify => 0b00#2
  | .ir => 0b01#2
  | .drTdi => 0b10#2
  | .drTdo => 0b11#2

/-- `sel[2:0]` (R10, decision D3). -/
def Sel.code : Sel → BitVec 3
  | .idle => 0b000#3
  | .bypass => 0b001#3
  | .idcode => 0b010#3
  | .pdicom => 0b011#3
  | .unknown => 0b100#3

/-- The name of a `sel` code; 101, 110 and 111 are never held (R10, R52). -/
def Sel.ofCode (c : BitVec 3) : Option Sel :=
  if c = 0b000#3 then some .idle
  else if c = 0b001#3 then some .bypass
  else if c = 0b010#3 then some .idcode
  else if c = 0b011#3 then some .pdicom
  else if c = 0b100#3 then some .unknown
  else none

/-- The category codes (R48, decision D4): 0 to 17 in the order the source lists them. -/
def Category.code : Category → BitVec 5
  | .item => 0#5
  | .field => 1#5
  | .command => 2#5
  | .warning => 3#5
  | .dataIn => 4#5
  | .parityInOk => 5#5
  | .parityInErr => 6#5
  | .dataOut => 7#5
  | .parityOutOk => 8#5
  | .parityOutErr => 9#5
  | .brk => 10#5
  | .opcode => 11#5
  | .dataProg => 12#5
  | .dataDev => 13#5
  | .pdiBreak => 14#5
  | .enable => 15#5
  | .disable => 16#5
  | .cmdData => 17#5

/-- The kind of an event (R40). -/
def Event.kind : Event → Kind
  | .notify => .notify
  | .ir _ => .ir
  | .drTdi _ => .drTdi
  | .drTdo _ => .drTdo

/-! ## The dispatch key -/

/-- `short` (R42): 1 when the event is an IR event with fewer than 4 bits. -/
def Event.short : Event → Bool
  | .ir p => decide (p.bits.length < 4)
  | _ => false

/-- `ir4` (R42): the value of the first four bits of an IR event that has them, 0 otherwise. -/
def Event.ir4 : Event → BitVec 4
  | .ir p => if p.bits.length < 4 then 0#4 else BitVec.ofNat 4 (val (slice 0 4 p.bits))
  | _ => 0#4

/-- The dispatch key `K = kind ++ sel ++ short ++ ir4` of an event met in a state (R42). -/
def dispatchKey (sel : Sel) (e : Event) : BitVec 10 :=
  e.kind.code ++ sel.code ++ BitVec.ofBool e.short ++ e.ir4

/-- `K[4]`. -/
def keyShort (k : BitVec 10) : Bool :=
  k.getLsbD 4

/-- `K[3:0]`. -/
def keyIr4 (k : BitVec 10) : BitVec 4 :=
  k.extractLsb' 0 4

/-- `K[7:5]`. -/
def keySel (k : BitVec 10) : BitVec 3 :=
  k.extractLsb' 5 3

/-! ## The decoder -/

/-- One row of the operation map of R42: a key `k` matches when `k` under the mask is the pattern. -/
structure KRow where
  pattern : BitVec 10
  mask : BitVec 10
  op : KOp
deriving DecidableEq, Repr

/-- The operation map of R42, row for row (opcode_table.json, format K). -/
def kRows : List KRow :=
  [⟨0x000#10, 0x300#10, .notify⟩,
   ⟨0x103#10, 0x31F#10, .irIdcode⟩,
   ⟨0x107#10, 0x31F#10, .irPdicom⟩,
   ⟨0x10F#10, 0x31F#10, .irBypass⟩,
   ⟨0x100#10, 0x31F#10, .irUnknown⟩,
   ⟨0x101#10, 0x31F#10, .irUnknown⟩,
   ⟨0x102#10, 0x31F#10, .irUnknown⟩,
   ⟨0x104#10, 0x31F#10, .irUnknown⟩,
   ⟨0x105#10, 0x31F#10, .irUnknown⟩,
   ⟨0x106#10, 0x31F#10, .irUnknown⟩,
   ⟨0x108#10, 0x31F#10, .irUnknown⟩,
   ⟨0x109#10, 0x31F#10, .irUnknown⟩,
   ⟨0x10A#10, 0x31F#10, .irUnknown⟩,
   ⟨0x10B#10, 0x31F#10, .irUnknown⟩,
   ⟨0x10C#10, 0x31F#10, .irUnknown⟩,
   ⟨0x10D#10, 0x31F#10, .irUnknown⟩,
   ⟨0x10E#10, 0x31F#10, .irUnknown⟩,
   ⟨0x110#10, 0x310#10, .irUnknown⟩,
   ⟨0x200#10, 0x3E0#10, .drTdiIdle⟩,
   ⟨0x300#10, 0x3E0#10, .drTdoIdle⟩,
   ⟨0x220#10, 0x3E0#10, .drTdiBypass⟩,
   ⟨0x320#10, 0x3E0#10, .drTdoBypass⟩,
   ⟨0x240#10, 0x3E0#10, .drTdiIdcode⟩,
   ⟨0x340#10, 0x3E0#10, .drTdoIdcode⟩,
   ⟨0x260#10, 0x3E0#10, .drTdiPdicom⟩,
   ⟨0x360#10, 0x3E0#10, .drTdoPdicom⟩,
   ⟨0x280#10, 0x3E0#10, .drTdiUnknown⟩,
   ⟨0x380#10, 0x3E0#10, .drTdoUnknown⟩]

/-- Whether a key matches a row. -/
def KRow.hits (r : KRow) (k : BitVec 10) : Bool :=
  k &&& r.mask == r.pattern

/-- The operation a key selects (R42), if any row does. -/
def lookupKey (k : BitVec 10) : Option KOp :=
  (kRows.find? fun r => r.hits k).map KRow.op

/-- The operation with its payload. -/
def KOp.instr (p : Shift) : KOp → Instr
  | .notify => .notify
  | .irIdcode => .irIdcode p
  | .irPdicom => .irPdicom p
  | .irBypass => .irBypass p
  | .irUnknown => .irUnknown p
  | .drTdiIdle => .drTdiIdle p
  | .drTdoIdle => .drTdoIdle p
  | .drTdiBypass => .drTdiBypass p
  | .drTdoBypass => .drTdoBypass p
  | .drTdiIdcode => .drTdiIdcode p
  | .drTdoIdcode => .drTdoIdcode p
  | .drTdiPdicom => .drTdiPdicom p
  | .drTdoPdicom => .drTdoPdicom p
  | .drTdiUnknown => .drTdiUnknown p
  | .drTdoUnknown => .drTdoUnknown p

/-- The four IR operations, whose keys tell something of the payload. -/
def KOp.isIr : KOp → Bool
  | .irIdcode | .irPdicom | .irBypass | .irUnknown => true
  | _ => false

/-- The key's `short` and `ir4` are the ones the payload gives (R42). With `short` set the row's mask leaves `ir4`
out. -/
def keyAgrees (k : BitVec 10) (v : Bits) : Bool :=
  if v.length < 4 then keyShort k else !keyShort k && keyIr4 k == BitVec.ofNat 4 (val (slice 0 4 v))

/-- Decoding a dispatch key with its payload. -/
def decodeKey (pk : Packet) : Except DecodeError Instr :=
  match lookupKey pk.code with
  | none => .error .unassignedKey
  | some op =>
    if op = .notify then
      if pk.shift = Shift.none then .ok .notify else .error .strayPayload
    else if !pk.shift.paired then .error .unpairedRanges
    else if op.isIr && !keyAgrees pk.code pk.shift.bits then .error .keyMismatch
    else .ok (op.instr pk.shift)

/-- The operation of a frame class (the F rows of the opcode table). -/
def FrameClass.instr (dir : Direction) (p : Shift) : FrameClass → Instr
  | .malformed => .pdiMalformed dir p
  | .brk => .pdiBreak dir p
  | .delay => .pdiDelay dir p
  | .empty => .pdiEmpty dir p
  | .data => .pdiData dir p
  | .invalid => .pdiInvalid dir p

/-- Decoding a frame: a 9-bit frame's value is `F` (R46); a frame of another length has no value to match. -/
def decodeFrame (pk : Packet) : Except DecodeError Instr :=
  if !pk.shift.paired then .error .unpairedRanges
  else if pk.shift.bits.length = 9 ∧ pk.code ≠ BitVec.ofNat 10 (val pk.shift.bits) then .error .frameMismatch
  else .ok ((Machine.frameClass pk.shift.bits).instr pk.dir pk.shift)

/-- The name whose opcode a SELECT word holds (R55). -/
def selectableOf (ir4 : BitVec 4) : Option Selectable :=
  if ir4 = 0b0011#4 then some .idcode
  else if ir4 = 0b0111#4 then some .pdicom
  else if ir4 = 0b1111#4 then some .bypass
  else none

/-- Decoding a shorthand (R55; opcode_table.json: SHIFT_DR 0x200 under mask 0x200, SELECT 0x100 under 0x310). -/
def decodePseudo (pk : Packet) : Except DecodeError Instr :=
  if pk.code &&& 0x200#10 = 0x200#10 then
    if !pk.shift.paired then .error .unpairedRanges
    else if pk.tdo.length ≠ pk.shift.bits.length then .error .unequalShifts
    else .ok (.shiftDr pk.shift pk.tdo)
  else if pk.code &&& 0x310#10 = 0x100#10 then
    match selectableOf (keyIr4 pk.code) with
    | none => .error .notSelectable
    | some name =>
      if pk.shift.bits ≠ name.opcode then .error .notSelectable
      else if !pk.shift.paired then .error .unpairedRanges
      else .ok (.select name pk.shift.rangesRaw pk.shift.ss pk.shift.es)
  else .error .unassignedKey

/-- The decoder: total, one operation or one named rejection for every packet. -/
def decode (pk : Packet) : Except DecodeError Instr :=
  match pk.format with
  | .k => decodeKey pk
  | .f => decodeFrame pk
  | .pseudo => decodePseudo pk
  | .none => .ok .reset

/-! ## The packet of a stream entry, and of a bare table word -/

/-- What the dispatcher sees of an event in a state: the key of R42 with the payload. -/
def Event.packet (sel : Sel) (e : Event) : Packet :=
  ⟨.k, dispatchKey sel e, .toDevice, e.shift, []⟩

/-- The packet of a stream entry met with `sel`. -/
def Item.packet (sel : Sel) : Item → Packet
  | .event e => e.packet sel
  | .reset => ⟨.none, 0#10, .toDevice, Shift.none, []⟩
  | .select name rangesRaw ss es =>
    ⟨.pseudo, 0b010000#6 ++ BitVec.ofNat 4 (val name.opcode), .toDevice, ⟨name.opcode, rangesRaw, ss, es⟩, []⟩
  | .shiftDr tdi tdo => ⟨.pseudo, 0x200#10, .toDevice, tdi, tdo⟩
  | .frame dir p =>
    ⟨.f, if p.bits.length = 9 then BitVec.ofNat 10 (val p.bits) else 0#10, dir, p, []⟩

/-- A payload with all sample numbers zero: the operand words of zeros behind a bare table word. -/
def zeroShift (b : Bits) : Shift :=
  ⟨b, List.replicate b.length (0, 0), 0, 0⟩

/-- The 9-bit frame words the opcode table gives in full (PDI.BREAK, PDI.DELAY, PDI.EMPTY). None of them is the key
of an event in a state: their bits 7:5 are the `sel` codes 101, 110, 111 that are never held (R10; log entry 10). -/
def frameWords : List (BitVec 10) :=
  [0x1BB#10, 0x1DB#10, 0x1EB#10]

/-- The packet of a bare table word: one of the three frame words, or a dispatch key whose payload is what the key
itself tells (the four opcode bits of an IR key) and is empty otherwise. A frame word holds no direction (R9, R46):
that it is read as a `toDevice` frame, and so gets the `data-in` and `data-prog` categories of R94, is the model's DESIGN
CHOICE, as is the whole reading of bare words (log entry 10). -/
def tablePacket (k : BitVec 10) : Packet :=
  if frameWords.contains k then
    ⟨.f, k, .toDevice, zeroShift (bin 9 k.toNat), []⟩
  else if k &&& 0x310#10 = 0x100#10 then
    ⟨.k, k, .toDevice, zeroShift (bin 4 (keyIr4 k).toNat), []⟩
  else
    ⟨.k, k, .toDevice, Shift.none, []⟩

/-- What the decoder reads from a bare table word of `nbits` bits, numbered as spec/opcode_table.json numbers them,
with operand words of zeros. Words of more than 10 bits are no key and no frame. -/
def decodeTableWord (nbits w : Nat) : Option Instr :=
  let v := w % 2 ^ nbits
  if v < 1024 then
    match decode (tablePacket (BitVec.ofNat 10 v)) with
    | .ok i => some i
    | .error _ => none
  else none

/-! ## The encoder -/

/-- The key of an IR operation, `sel` bits zero (they are masked out, R42): 0x110 for a short payload, else 0x100
with the opcode bits. -/
def irKey (v : Bits) : BitVec 10 :=
  if v.length < 4 then 0x110#10 else 0b010000#6 ++ BitVec.ofNat 4 (val (slice 0 4 v))

/-- A key packet. -/
def keyPacket (code : BitVec 10) (p : Shift) : Packet :=
  ⟨.k, code, .toDevice, p, []⟩

/-- A frame packet (R46): the frame's value, or 0 for a frame that has no 9-bit value. -/
def framePacket (dir : Direction) (p : Shift) : Packet :=
  ⟨.f, if p.bits.length = 9 then BitVec.ofNat 10 (val p.bits) else 0#10, dir, p, []⟩

/-- The encoder, from the same tables; `sel` bits that a row masks out are written 0. -/
def encode : Instr → Packet
  | .notify => keyPacket 0x000#10 Shift.none
  | .irIdcode p => keyPacket 0x103#10 p
  | .irPdicom p => keyPacket 0x107#10 p
  | .irBypass p => keyPacket 0x10F#10 p
  | .irUnknown p => keyPacket (irKey p.bits) p
  | .drTdiIdle p => keyPacket 0x200#10 p
  | .drTdoIdle p => keyPacket 0x300#10 p
  | .drTdiBypass p => keyPacket 0x220#10 p
  | .drTdoBypass p => keyPacket 0x320#10 p
  | .drTdiIdcode p => keyPacket 0x240#10 p
  | .drTdoIdcode p => keyPacket 0x340#10 p
  | .drTdiPdicom p => keyPacket 0x260#10 p
  | .drTdoPdicom p => keyPacket 0x360#10 p
  | .drTdiUnknown p => keyPacket 0x280#10 p
  | .drTdoUnknown p => keyPacket 0x380#10 p
  | .pdiMalformed dir p => framePacket dir p
  | .pdiBreak dir p => ⟨.f, 0x1BB#10, dir, p, []⟩
  | .pdiDelay dir p => ⟨.f, 0x1DB#10, dir, p, []⟩
  | .pdiEmpty dir p => ⟨.f, 0x1EB#10, dir, p, []⟩
  | .pdiData dir p => framePacket dir p
  | .pdiInvalid dir p => framePacket dir p
  | .select name rangesRaw ss es =>
    ⟨.pseudo, 0b010000#6 ++ BitVec.ofNat 4 (val name.opcode), .toDevice, ⟨name.opcode, rangesRaw, ss, es⟩, []⟩
  | .shiftDr tdi tdo => ⟨.pseudo, 0x200#10, .toDevice, tdi, tdo⟩
  | .reset => ⟨.none, 0#10, .toDevice, Shift.none, []⟩

end Sys2Proof
end

