-- ==== Sys2Proof/Machine/State.lean ====
section
/-! DEFINITION. The whole state (10_state.md R10, R11), the outputs of a step (R49, R60, R98) held beside it, the
stream of entries not yet consumed, the reasons a step can stop, and the state after reset (R19, R135). -/

namespace Sys2Proof.Machine

/-- The state of the block, with its input and its outputs. `sel` and `ranges` are all the spec gives the block as
state (R18); the other fields are the input it has not consumed and the output it has produced (log entries 1, 3). -/
structure State where
  /-- The selected register (R10). -/
  sel : Sel
  /-- The sample-range latch, in string order (R11). -/
  ranges : List SampleRange
  /-- The record list of the last step: it starts empty at every step (R49, R60). -/
  out : List Record
  /-- The frame result of the last step (R60, R98). -/
  pdi : Option PdiResult
  /-- Every record emitted so far, in emission order (R36, R150): what the sink has received. -/
  sink : List Record
  /-- Every frame result so far, in order (R150). -/
  results : List PdiResult
  /-- The entries delivered by the upstream source and not yet consumed, next one first (R36, R40). -/
  stream : List Item
deriving DecidableEq, Repr

/-- The faults of the block: there are none. "The block raises no exception, fault or trap, synchronous or
asynchronous, for any input" (R120). Safe: no step can fault, by type. -/
inductive Fault where
deriving DecidableEq, Repr

/-- Why a step is not taken. -/
inductive Refusal where
  /-- An operation without a meaning, named as the opcode table spells it. Raised by an arm of `exec` that is not
  written yet; no arm is. Safe. -/
  | notModelled (mnemonic : String)
  /-- There is no entry to consume: the run has ended (R150, log entry 2). Raised by fetching. Safe. -/
  | endOfStream
  /-- The next entry is not well formed: it "is refused at the input and never becomes a step" (R41, U12; log
  entry 13). Raised by fetching. Safe. -/
  | illFormed (why : DecodeError)
deriving DecidableEq, Repr

/-- The machine right after reset (R19, R135): IDLE, no ranges; nothing emitted and nothing delivered (log entries
1, 3, 12). -/
def State.reset : State where
  sel := .idle
  ranges := []
  out := []
  pdi := none
  sink := []
  results := []
  stream := []

end Sys2Proof.Machine
end

