-- ==== Sys2Proof/Machine/Ops.lean ====
section
/-! DEFINITION. The shared operations: the primitives of R6's table (`sel <- s`, `ranges <- r`, `emit`), the reset
of a session (R135), and the three handlers: `bypass` (R80), `idcode` (R81 to R84) and `validate_and_annotate`
(R90 to R98). The block has no exception to take and none to return from (R120, R130, R131). -/

namespace Sys2Proof.Machine

/-- What a step answers. -/
abbrev Outcome := Host.Outcome State Fault Refusal

/-- Goes on from a next state; a stop stays a stop. -/
def andThen (o : Outcome) (f : State → Outcome) : Outcome :=
  match o with
  | .next s => f s
  | .fault r => .fault r
  | .refused r => .refused r

namespace State

/-- `out <- [] ; pdi <- none`, the first line of the step (R49, R60). -/
def beginStep (s : State) : State :=
  { s with out := [], pdi := none }

/-- `ranges <- reverse(ranges_raw)` (R11, R26, R60). -/
def latch (rangesRaw : List SampleRange) (s : State) : State :=
  { s with ranges := inStringOrder rangesRaw }

/-- `sel <- x`. -/
def setSel (x : Sel) (s : State) : State :=
  { s with sel := x }

/-- `emit` of a list of records, in order (R36, R49): they join the step's list and reach the sink. -/
def emit (rs : List Record) (s : State) : State :=
  { s with out := s.out ++ rs, sink := s.sink ++ rs }

/-- The step's frame result (R98). -/
def report (r : PdiResult) (s : State) : State :=
  { s with pdi := some r, results := s.results ++ [r] }

/-- `reset()` (R135, R136): `sel <- IDLE ; ranges <- []`; no record, no result; what the sink has stays there and
what the source goes on to deliver is not touched. -/
def resetSession (s : State) : State :=
  { s with sel := .idle, ranges := [], out := [], pdi := none }

/-- The start of every step whose event carries a payload: empty outputs, then the latch (R11, R60). -/
def beginShift (p : Shift) (s : State) : State :=
  s.beginStep.latch p.rangesRaw

end State

/-- What every IR event does (R62): select `name`, emit one record over the whole event naming it (decision D9). -/
def selectRegister (name : RegName) (p : Shift) (s : State) : State :=
  ((s.beginShift p).setSel name.toSel).emit [⟨p.ss, p.es, .item, .sel name⟩]

/-- What a dropped DR event does: nothing but the latch (R60, R67, R127). -/
def dropShift (p : Shift) (s : State) : State :=
  s.beginShift p

/-! ## BYPASS -/

/-- `bypass(ev)` (R80): one item record over the whole event, the bits as they are. -/
def bypassRecords (p : Shift) : List Record :=
  [⟨p.ss, p.es, .item, .bits p.bits⟩]

/-! ## IDCODE -/

/-- A record over the positions `a` to `e` (R51). -/
def spanRecord (ranges : List SampleRange) (a e : Nat) (cat : Category) (payload : Payload) : Record :=
  ⟨(span ranges a e).1, (span ranges a e).2, cat, payload⟩

/-- The six records of a 32-bit word, in order (R83; spans of the item and command records: decision D13). -/
def idcodeWordRecords (p : Shift) (ranges : List SampleRange) : List Record :=
  let f := idcodeFields p.bits
  let w := idcodeWord p.bits
  [spanRecord ranges 0 0 .field .reserved,
   spanRecord ranges 1 11 .field (.manuf f.manufacturer),
   spanRecord ranges 12 27 .field (.part f.part),
   spanRecord ranges 28 31 .field (.version f.version),
   ⟨p.ss, p.es, .item, .idcode w⟩,
   ⟨p.ss, p.es, .command, .idcodeCmd w⟩]

/-- `idcode(ev)` (R81 to R83): the width is checked before any field is read (R82, R144; decision D11). -/
def idcodeRecords (p : Shift) (ranges : List SampleRange) : List Record :=
  if p.bits.length ≠ Config.idcodeWidth then
    [⟨p.ss, p.es, .warning, .malformedShift p.bits.length⟩]
  else idcodeWordRecords p ranges

/-! ## PDI frames -/

/-- Step 4 of the extractor: the data record, over the data bits (R93). -/
def dataRecord (dir : Direction) (ranges : List SampleRange) (d : BitVec 8) : Record :=
  spanRecord ranges 1 8 (dataCat dir) (.byte d)

/-- Step 5 of the extractor: the parity record, at the parity bit (R93). -/
def parityRecord (dir : Direction) (ranges : List SampleRange) (ok : Bool) : Record :=
  spanRecord ranges 0 0 (parityCat dir ok) (.parity ok)

/-- Step 6 of the extractor: the special-character record, over the data bits (R94; decision D14). -/
def specialRecord (dir : Direction) (ranges : List SampleRange) (c : Special) : Record :=
  spanRecord ranges 1 8 (specialCat dir) (.special c)

/-- `validate_and_annotate(frame, dir)` (R90 to R94, R98): its records and the pair it returns. The length is
checked before any position is read (R90, R144). -/
def validateAndAnnotate (frame : Bits) (dir : Direction) (ranges : List SampleRange) :
    List Record × (BitVec 8 × Bool) :=
  if frame.length ≠ Config.frameWidth then ([], (0#8, false))
  else
    let d := frameByte frame
    let ok := frameOk frame
    ([dataRecord dir ranges d, parityRecord dir ranges ok]
        ++ (if ok then [] else [specialRecord dir ranges (specialOf d)]),
      (d, ok))

/-- `handle_input` and `handle_output` (R96, R97): the extractor bound to a direction, on the latched ranges; the
returned pair is the step's frame result (R98). -/
def handleFrame (dir : Direction) (frame : Bits) (s : State) : State :=
  let r := validateAndAnnotate frame dir s.ranges
  (s.emit r.1).report ⟨dir, r.2.1, r.2.2⟩

end Sys2Proof.Machine
end

