-- ==== Sys2Proof/Machine/DataShift.lean ====
section
/-! DEFINITION. The data-register family: the ten DR operations, one per direction and value of `sel` (R67 to R76).
Each is selected by `sel` through the dispatch key, so a meaning does not test `sel` again. -/

namespace Sys2Proof.Machine

/-- DR_TDI.IDLE (R67): dropped. -/
def execDrTdiIdle (p : Shift) (s : State) : Outcome :=
  .next (dropShift p s)

/-- DR_TDO.IDLE (R68): dropped. -/
def execDrTdoIdle (p : Shift) (s : State) : Outcome :=
  .next (dropShift p s)

/-- DR_TDI.BYPASS (R69): the BYPASS record, then IDLE. -/
def execDrTdiBypass (p : Shift) (s : State) : Outcome :=
  .next (((s.beginShift p).emit (bypassRecords p)).setSel .idle)

/-- DR_TDO.BYPASS (R70): the BYPASS record, then IDLE. -/
def execDrTdoBypass (p : Shift) (s : State) : Outcome :=
  .next (((s.beginShift p).emit (bypassRecords p)).setSel .idle)

/-- DR_TDI.IDCODE (R71): dropped, IDCODE stays selected. -/
def execDrTdiIdcode (p : Shift) (s : State) : Outcome :=
  .next (dropShift p s)

/-- DR_TDO.IDCODE (R72): the IDCODE records on the ranges just latched, then IDLE. -/
def execDrTdoIdcode (p : Shift) (s : State) : Outcome :=
  let s1 := s.beginShift p
  .next ((s1.emit (idcodeRecords p s1.ranges)).setSel .idle)

/-- DR_TDI.PDICOM (R73): the frame extractor, host to device; PDICOM stays selected. -/
def execDrTdiPdicom (p : Shift) (s : State) : Outcome :=
  .next (handleFrame .toDevice p.bits (s.beginShift p))

/-- DR_TDO.PDICOM (R74): the PDICOM command record, before the frame is looked at (decisions D13, D15), then the
frame extractor, device to host; PDICOM stays selected. -/
def execDrTdoPdicom (p : Shift) (s : State) : Outcome :=
  .next (handleFrame .toHost p.bits ((s.beginShift p).emit [⟨p.ss, p.es, .command, .pdicom⟩]))

/-- DR_TDI.UNKNOWN (R75): dropped. -/
def execDrTdiUnknown (p : Shift) (s : State) : Outcome :=
  .next (dropShift p s)

/-- DR_TDO.UNKNOWN (R76): dropped, UNKNOWN stays selected. -/
def execDrTdoUnknown (p : Shift) (s : State) : Outcome :=
  .next (dropShift p s)

end Sys2Proof.Machine
end

