-- ==== Sys2Proof/Machine/Control.lean ====
section
/-! DEFINITION. NOTIFY (R61), RESET (R135) and the shorthand SHIFT_DR (R55). -/

namespace Sys2Proof.Machine

/-- NOTIFY (R61): nothing is selected, latched or emitted. -/
def execNotify (s : State) : Outcome :=
  .next s.beginStep

/-- RESET (R135), between two events. -/
def execReset (s : State) : Outcome :=
  .next s.resetSession

/-- A DR_TDI event met with the `sel` of the state: the mux of R60. -/
def tdiEvent (p : Shift) (s : State) : Outcome :=
  match s.sel with
  | .idle => execDrTdiIdle p s
  | .bypass => execDrTdiBypass p s
  | .idcode => execDrTdiIdcode p s
  | .pdicom => execDrTdiPdicom p s
  | .unknown => execDrTdiUnknown p s

/-- A DR_TDO event met with the `sel` of the state: the mux of R60. -/
def tdoEvent (p : Shift) (s : State) : Outcome :=
  match s.sel with
  | .idle => execDrTdoIdle p s
  | .bypass => execDrTdoBypass p s
  | .idcode => execDrTdoIdcode p s
  | .pdicom => execDrTdoPdicom p s
  | .unknown => execDrTdoUnknown p s

/-- SHIFT_DR (R55): DR_TDI followed by DR_TDO with the same bounds and ranges (log entry 5). -/
def execShiftDr (tdi : Shift) (tdo : Bits) (s : State) : Outcome :=
  andThen (tdiEvent tdi s) fun s1 => tdoEvent { tdi with bits := tdo } s1

end Sys2Proof.Machine
end

