-- ==== Sys2Proof/Machine/IrSelect.lean ====
section
/-! DEFINITION. The IR family: the four IR operations (R62 to R66) and the shorthand SELECT (R55). None of them
reads the old `sel`. -/

namespace Sys2Proof.Machine

/-- IR.IDCODE (R63). -/
def execIrIdcode (p : Shift) (s : State) : Outcome :=
  .next (selectRegister .idcode p s)

/-- IR.PDICOM (R64). -/
def execIrPdicom (p : Shift) (s : State) : Outcome :=
  .next (selectRegister .pdicom p s)

/-- IR.BYPASS (R65). -/
def execIrBypass (p : Shift) (s : State) : Outcome :=
  .next (selectRegister .bypass p s)

/-- IR.UNKNOWN (R66): not fatal, the record is emitted as for any register. -/
def execIrUnknown (p : Shift) (s : State) : Outcome :=
  .next (selectRegister .unknown p s)

/-- SELECT (R55): the IR event with the 4-bit opcode of the name, looked up as any IR payload is (R62). -/
def execSelect (name : Selectable) (rangesRaw : List SampleRange) (ss es : Sample) (s : State) : Outcome :=
  .next (selectRegister (irName name.opcode) ⟨name.opcode, rangesRaw, ss, es⟩ s)

end Sys2Proof.Machine
end

