-- ==== Sys2Proof/Machine/PdiFrame.lean ====
section
/-! DEFINITION. The frame family: the operations of the extractor by frame class (R47, R90 to R94), the F rows of the
opcode table, on a frame handed straight to component 2 with its own ranges (log entry 4). They read no state and
write neither `sel` nor `ranges` (R99 (e)). -/

namespace Sys2Proof.Machine

/-- The outputs of one frame: its records and its result (R98). -/
def frameStep (dir : Direction) (records : List Record) (d : BitVec 8) (ok : Bool) (s : State) : State :=
  (s.beginStep.emit records).report ⟨dir, d, ok⟩

/-- The records of a frame whose byte `d` fails parity and is labelled `c` (R93, R94): three, in this order. -/
def failedFrameRecords (dir : Direction) (p : Shift) (d : BitVec 8) (c : Special) : List Record :=
  let ranges := inStringOrder p.rangesRaw
  [dataRecord dir ranges d, parityRecord dir ranges false, specialRecord dir ranges c]

/-- PDI.MALFORMED (R90): no record, `(0, false)`. -/
def execPdiMalformed (dir : Direction) (_p : Shift) (s : State) : Outcome :=
  .next (frameStep dir [] 0#8 false s)

/-- PDI.BREAK (R94): the byte 0xBB with invalid parity. -/
def execPdiBreak (dir : Direction) (p : Shift) (s : State) : Outcome :=
  .next (frameStep dir (failedFrameRecords dir p 0xBB#8 .brk) 0xBB#8 false s)

/-- PDI.DELAY (R94): the byte 0xDB with invalid parity. -/
def execPdiDelay (dir : Direction) (p : Shift) (s : State) : Outcome :=
  .next (frameStep dir (failedFrameRecords dir p 0xDB#8 .delay) 0xDB#8 false s)

/-- PDI.EMPTY (R94): the byte 0xEB with invalid parity. -/
def execPdiEmpty (dir : Direction) (p : Shift) (s : State) : Outcome :=
  .next (frameStep dir (failedFrameRecords dir p 0xEB#8 .empty) 0xEB#8 false s)

/-- PDI.DATA (R93): valid parity, two records. -/
def execPdiData (dir : Direction) (p : Shift) (s : State) : Outcome :=
  let d := frameByte p.bits
  let ranges := inStringOrder p.rangesRaw
  .next (frameStep dir [dataRecord dir ranges d, parityRecord dir ranges true] d true s)

/-- PDI.INVALID (R94): invalid parity and no special character. -/
def execPdiInvalid (dir : Direction) (p : Shift) (s : State) : Outcome :=
  let d := frameByte p.bits
  .next (frameStep dir (failedFrameRecords dir p d .invalid) d false s)

end Sys2Proof.Machine
end

