-- ==== Sys2Proof/Machine/Dispatch.lean ====
section
/-! DEFINITION. The meaning of every operation: one arm per constructor of `Instr`. -/

namespace Sys2Proof.Machine

def exec (i : Instr) (s : State) : Host.Outcome State Fault Refusal :=
  match i with
  | .notify => Sys2Proof.Machine.execNotify s
  | .irIdcode p => Sys2Proof.Machine.execIrIdcode p s
  | .irPdicom p => Sys2Proof.Machine.execIrPdicom p s
  | .irBypass p => Sys2Proof.Machine.execIrBypass p s
  | .irUnknown p => Sys2Proof.Machine.execIrUnknown p s
  | .drTdiIdle p => Sys2Proof.Machine.execDrTdiIdle p s
  | .drTdoIdle p => Sys2Proof.Machine.execDrTdoIdle p s
  | .drTdiBypass p => Sys2Proof.Machine.execDrTdiBypass p s
  | .drTdoBypass p => Sys2Proof.Machine.execDrTdoBypass p s
  | .drTdiIdcode p => Sys2Proof.Machine.execDrTdiIdcode p s
  | .drTdoIdcode p => Sys2Proof.Machine.execDrTdoIdcode p s
  | .drTdiPdicom p => Sys2Proof.Machine.execDrTdiPdicom p s
  | .drTdoPdicom p => Sys2Proof.Machine.execDrTdoPdicom p s
  | .drTdiUnknown p => Sys2Proof.Machine.execDrTdiUnknown p s
  | .drTdoUnknown p => Sys2Proof.Machine.execDrTdoUnknown p s
  | .pdiMalformed dir p => Sys2Proof.Machine.execPdiMalformed dir p s
  | .pdiBreak dir p => Sys2Proof.Machine.execPdiBreak dir p s
  | .pdiDelay dir p => Sys2Proof.Machine.execPdiDelay dir p s
  | .pdiEmpty dir p => Sys2Proof.Machine.execPdiEmpty dir p s
  | .pdiData dir p => Sys2Proof.Machine.execPdiData dir p s
  | .pdiInvalid dir p => Sys2Proof.Machine.execPdiInvalid dir p s
  | .select name rangesRaw ss es => Sys2Proof.Machine.execSelect name rangesRaw ss es s
  | .shiftDr tdi tdo => Sys2Proof.Machine.execShiftDr tdi tdo s
  | .reset => Sys2Proof.Machine.execReset s

end Sys2Proof.Machine
end

