-- ==== Sys2Proof/Machine/Fetch.lean ====
section
/-! DEFINITION. Fetching: the next entry of the stream, met with `sel`, decoded (R40, R42, R60); and the placing of
one operation as the next entry of a stream. -/

namespace Sys2Proof.Machine

/-- The next operation and the state after its entry has left the stream: the entry with `sel` forms a packet (for
an event, the dispatch key of R42), and the decoder reads it. -/
def fetch (s : State) : Except Refusal (Instr × State) :=
  match s.stream with
  | [] => .error .endOfStream
  | x :: rest =>
    match decode (x.packet s.sel) with
    | .error e => .error (.illFormed e)
    | .ok i => .ok (i, { s with stream := rest })

/-- The stream entry whose decoding is the operation, where `sel` is `selFor`. -/
def itemOf : Instr → Item
  | .notify => .event .notify
  | .irIdcode p | .irPdicom p | .irBypass p | .irUnknown p => .event (.ir p)
  | .drTdiIdle p | .drTdiBypass p | .drTdiIdcode p | .drTdiPdicom p | .drTdiUnknown p => .event (.drTdi p)
  | .drTdoIdle p | .drTdoBypass p | .drTdoIdcode p | .drTdoPdicom p | .drTdoUnknown p => .event (.drTdo p)
  | .pdiMalformed dir p | .pdiBreak dir p | .pdiDelay dir p | .pdiEmpty dir p | .pdiData dir p
  | .pdiInvalid dir p => .frame dir p
  | .select name rangesRaw ss es => .select name rangesRaw ss es
  | .shiftDr tdi tdo => .shiftDr tdi tdo
  | .reset => .reset

/-- The value of `sel` an operation is selected under (R42), where it is selected by `sel` at all. -/
def selFor : Instr → Option Sel
  | .drTdiIdle _ | .drTdoIdle _ => some .idle
  | .drTdiBypass _ | .drTdoBypass _ => some .bypass
  | .drTdiIdcode _ | .drTdoIdcode _ => some .idcode
  | .drTdiPdicom _ | .drTdoPdicom _ => some .pdicom
  | .drTdiUnknown _ | .drTdoUnknown _ => some .unknown
  | .notify | .irIdcode _ | .irPdicom _ | .irBypass _ | .irUnknown _
  | .pdiMalformed _ _ | .pdiBreak _ _ | .pdiDelay _ _ | .pdiEmpty _ _ | .pdiData _ _ | .pdiInvalid _ _
  | .select _ _ _ _ | .shiftDr _ _ | .reset => none

/-- The state whose next step runs the operation: its entry is first in the stream, and `sel` is the one that
selects it. -/
def placeInstr (i : Instr) (s : State) : State :=
  { s with sel := (selFor i).getD s.sel, stream := itemOf i :: s.stream }

/-- Delivery by the upstream source (R134): the entries follow those already delivered (R36). -/
def feed (items : List Item) (s : State) : State :=
  { s with stream := s.stream ++ items }

end Sys2Proof.Machine
end

