-- ==== Sys2Proof/Machine/Step.lean ====
section
/-! DEFINITION. One step (R60): fetch the next entry and run it. -/

namespace Sys2Proof.Machine

/-- One step: one entry of the stream is consumed and its operation runs to completion (R33, R60). -/
def step (s : State) : Host.Outcome State Fault Refusal :=
  match fetch s with
  | .error r => .refused r
  | .ok (i, s1) => exec i s1

/-- `s` with the operation of a bare table word as the next entry of its stream, and, where the word is a key that
names a `sel`, with that `sel` (log entries 1, 10). A word that is no operation cannot be delivered, and leaves `s`
as it is. -/
def State.withFetchWord (s : State) (nbits w : Nat) : State :=
  match decodeTableWord nbits w with
  | none => s
  | some i => placeInstr i s

end Sys2Proof.Machine
end

