-- ==== Sys2Proof/Machine/Labels.lean ====
section
/-! DEFINITION. The text labels of the records (43_label_rendering.md, R100 to R114): what the sink sees. No operation
reads a label (R100). -/

namespace Sys2Proof.Machine

/-- `hex(x)` (R101, decision D17): `0x` and the lower-case digits without leading zeros, `0x0` for zero. -/
def hex (x : Nat) : String :=
  "0x" ++ String.ofList (Nat.toDigits 16 x)

/-- `hex2(d)` (R101): `0x` and exactly two lower-case digits. -/
def hex2 (d : BitVec 8) : String :=
  "0x" ++ String.ofList (Nat.toDigits 16 (d.toNat / 16) ++ Nat.toDigits 16 (d.toNat % 16))

/-- `dec(x)` (R101): the decimal digits without leading zeros, `0` for zero. -/
def dec (x : Nat) : String :=
  String.ofList (Nat.toDigits 10 x)

/-- A bit as a character. -/
def bitChar (x : Bool) : Char :=
  if x then '1' else '0'

/-- A bit string as text, in string order (R103). -/
def bitsText (b : Bits) : String :=
  String.ofList (b.map bitChar)

/-- The name of a register (R102). -/
def regText : RegName → String
  | .idcode => "IDCODE"
  | .pdicom => "PDICOM"
  | .bypass => "BYPASS"
  | .unknown => "UNKNOWN"

/-- `IR_LABEL(name)` (R102, decision D9; log entry 8): any text that contains the register name. -/
def irLabel (name : RegName) : String :=
  Config.irLabelBefore name ++ regText name ++ Config.irLabelAfter name

/-- `partname(p)` (R84, R105): the table's name, or the number in hexadecimal. -/
def partName (p : BitVec 16) : String :=
  (partLookup p).getD (hex p.toNat)

/-- The name of a special-character label (R112). -/
def specialText : Special → String
  | .brk => "BREAK"
  | .delay => "DELAY"
  | .empty => "EMPTY"
  | .invalid => "INVALID"

/-- The command label of an IDCODE word (R108): its fields follow from the word. -/
def idcodeCmdText (w : BitVec 32) : String :=
  "IDCODE: " ++ hex w.toNat ++ " (" ++ manufName (wordFields w).manufacturer ++ ": "
    ++ partName (wordFields w).part ++ "@r" ++ dec (wordFields w).version.toNat ++ ")"

/-- `label(cat, payload)` (R102 to R113): the long label. The payload alone settles it; the category only tells the
direction (R110). -/
def label (_cat : Category) (payload : Payload) : String :=
  match payload with
  | .sel name => irLabel name
  | .bits b => "BYPASS: " ++ bitsText b
  | .reserved => "Reserved"
  | .manuf m => "Manufacturer: " ++ manufName m
  | .part p => "Part: " ++ partName p
  | .version v => "Version: " ++ dec v.toNat
  | .idcode w => "IDCODE: " ++ hex w.toNat
  | .idcodeCmd w => idcodeCmdText w
  | .pdicom => "PDICOM"
  | .byte d => hex2 d
  | .parity ok => if ok then "Parity OK" else "Parity error"
  | .special c => specialText c
  | .malformedShift n => "Malformed register shift: " ++ dec n ++ " bits"

/-- The label list of a record (R49, R100): long, short, and optionally terse. -/
def labels (r : Record) : List String :=
  label r.cat r.payload :: Config.shortLabel r.cat r.payload :: (Config.terseLabel r.cat r.payload).toList

end Sys2Proof.Machine
end

