-- ==== Sys2Proof/Machine/Assembler.lean ====
section
/-! DEFINITION. The text form of an event sequence (R54, R55; decision D29; log entry 20), one entry a line: a total
reader of a line's characters, and a writer of the same form with its bounds and ranges in full. -/

namespace Sys2Proof.Machine

/-- The words of a line: what single spaces separate, empty words left out. -/
def wordsOf (line : List Char) : List (List Char) :=
  (line.splitOn ' ').filter fun w => !w.isEmpty

/-- A decimal number: one digit or more. -/
def readNat (w : List Char) : Option Nat :=
  if w.isEmpty || !w.all Char.isDigit then none
  else some (w.foldl (fun acc c => 10 * acc + (c.toNat - '0'.toNat)) 0)

/-- Whether a word is a bit string: characters 0 and 1, and underscores, which mean nothing (R54). -/
def isBitsWord (w : List Char) : Bool :=
  w.all fun c => c == '0' || c == '1' || c == '_'

/-- The bits of such a word. -/
def readBits (w : List Char) : Bits :=
  (w.filter (· != '_')).map (· == '1')

/-- One range, written `start-end` (R54). -/
def readRange (w : List Char) : Option SampleRange :=
  match w.splitOn '-' with
  | [a, b] => (readNat a).bind fun x => (readNat b).map fun y => (x, y)
  | _ => none

/-- The bounds, written `ss..es` (R54). -/
def readBounds (w : List Char) : Option (Sample × Sample) :=
  match w.splitOn '.' with
  | [a, [], b] => (readNat a).bind fun x => (readNat b).map fun y => (x, y)
  | _ => none

/-- The default ranges of a payload of `n` bits (R54): the first-shifted bit `(10, 19)`, the next `(20, 29)`. -/
def defaultRanges (n : Nat) : List SampleRange :=
  (List.range n).map fun i => (10 + 10 * i, 19 + 10 * i)

/-- The default bounds (R54): 10 and `10*n + 9`, both 0 for an empty payload. -/
def defaultBounds (n : Nat) : Sample × Sample :=
  if n = 0 then (0, 0) else (10, 10 * n + 9)

/-- A payload with the default sample numbers. -/
def defaultShift (b : Bits) : Shift :=
  ⟨b, defaultRanges b.length, (defaultBounds b.length).1, (defaultBounds b.length).2⟩

/-- The ranges at the end of a line: written out after the word `ranges`, or the default. -/
def readRanges (n : Nat) (ws : List (List Char)) : Option (List SampleRange) :=
  match ws with
  | [] => some (defaultRanges n)
  | w :: rs => if w = "ranges".toList then rs.mapM readRange else none

/-- What follows the bits: bounds after the word `@`, or the default; then the ranges. -/
def readTail (b : Bits) (ws : List (List Char)) : Option Shift :=
  match ws with
  | ['@'] :: w :: rest =>
    (readBounds w).bind fun se => (readRanges b.length rest).map fun rs => ⟨b, rs, se.1, se.2⟩
  | _ =>
    (readRanges b.length ws).map fun rs => ⟨b, rs, (defaultBounds b.length).1, (defaultBounds b.length).2⟩

/-- A payload: the bits, left out when empty, and the tail. -/
def readShift (ws : List (List Char)) : Option Shift :=
  match ws with
  | [] => readTail [] []
  | w :: rest => if isBitsWord w then readTail (readBits w) rest else readTail [] ws

/-- The name after SELECT (R55). -/
def readSelectable (w : List Char) : Option Selectable :=
  if w = "IDCODE".toList then some .idcode
  else if w = "PDICOM".toList then some .pdicom
  else if w = "BYPASS".toList then some .bypass
  else none

/-- The operands of SELECT: a name and a tail for its 4-bit opcode. -/
def readSelect (ws : List (List Char)) : Option Item :=
  match ws with
  | [] => none
  | w :: rest =>
    (readSelectable w).bind fun name =>
      (readTail name.opcode rest).map fun p => .select name p.rangesRaw p.ss p.es

/-- The operands of SHIFT_DR: two bit strings, both left out when empty, and one tail. -/
def readShiftDr (ws : List (List Char)) : Option Item :=
  match ws with
  | w :: v :: rest =>
    if isBitsWord w then
      if isBitsWord v then (readTail (readBits w) rest).map fun p => .shiftDr p (readBits v) else none
    else (readTail [] ws).map fun p => .shiftDr p []
  | _ => (readTail [] ws).map fun p => .shiftDr p []

/-- Reads the words of a line. -/
def readWords (ws : List (List Char)) : Option Item :=
  match ws with
  | [] => none
  | w :: rest =>
    if w = "NOTIFY".toList then (if rest.isEmpty then some (.event .notify) else none)
    else if w = "RESET".toList then (if rest.isEmpty then some .reset else none)
    else if w = "IR".toList then (readShift rest).map fun p => .event (.ir p)
    else if w = "DR_TDI".toList then (readShift rest).map fun p => .event (.drTdi p)
    else if w = "DR_TDO".toList then (readShift rest).map fun p => .event (.drTdo p)
    else if w = "SELECT".toList then readSelect rest
    else if w = "SHIFT_DR".toList then readShiftDr rest
    else none

/-- Reads one line (R54, R55): total, nothing for a line that is not of the form. -/
def readLine (line : List Char) : Option Item :=
  readWords (wordsOf line)

/-! ## The writer -/

/-- A number in decimal. -/
def natWord (n : Nat) : List Char :=
  Nat.toDigits 10 n

/-- The bits of a payload as words: one, or none when empty. -/
def bitsWords (b : Bits) : List (List Char) :=
  if b.isEmpty then [] else [b.map bitChar]

/-- Bounds and ranges in full. -/
def tailWords (rangesRaw : List SampleRange) (ss es : Sample) : List (List Char) :=
  ['@'] :: (natWord ss ++ ['.', '.'] ++ natWord es) :: "ranges".toList
    :: rangesRaw.map fun r => natWord r.1 ++ ['-'] ++ natWord r.2

/-- A payload in full. -/
def shiftWords (p : Shift) : List (List Char) :=
  bitsWords p.bits ++ tailWords p.rangesRaw p.ss p.es

/-- The name after SELECT. -/
def selectableWord : Selectable → List Char
  | .idcode => "IDCODE".toList
  | .pdicom => "PDICOM".toList
  | .bypass => "BYPASS".toList

/-- The words of an entry. A bare frame has no text form (R54). -/
def itemWords : Item → Option (List (List Char))
  | .event .notify => some ["NOTIFY".toList]
  | .event (.ir p) => some ("IR".toList :: shiftWords p)
  | .event (.drTdi p) => some ("DR_TDI".toList :: shiftWords p)
  | .event (.drTdo p) => some ("DR_TDO".toList :: shiftWords p)
  | .reset => some ["RESET".toList]
  | .select name rangesRaw ss es => some ("SELECT".toList :: selectableWord name :: tailWords rangesRaw ss es)
  | .shiftDr tdi tdo =>
    some ("SHIFT_DR".toList :: (bitsWords tdi.bits ++ bitsWords tdo ++ tailWords tdi.rangesRaw tdi.ss tdi.es))
  | .frame _ _ => none

/-- Writes one entry as a line. -/
def writeLine (x : Item) : Option (List Char) :=
  (itemWords x).map fun ws => [' '].intercalate ws

end Sys2Proof.Machine
end

