-- ==== Sys2Proof/Machine/Conditions.lean ====
section
/-! DEFINITION. The conditions of 60_exceptions.md (R121 to R127), in the order of exclusion R129 gives. They are names
of situations: nothing stores them (R120), and no operation reads them. -/

namespace Sys2Proof.Machine

/-- The identifiers of the table of 60_exceptions.md section 2. -/
inductive Condition where
  | irUnknown        -- X_IR_UNKNOWN, R121
  | manufUnknown     -- X_MANUF_UNKNOWN, R122
  | partUnknown      -- X_PART_UNKNOWN, R123
  | pdiMalformed     -- X_PDI_MALFORMED, R124
  | parity           -- X_PARITY, R125
  | malformedShift   -- X_MALFORMED_SHIFT, R126
  | ignored          -- X_IGNORED, R127
deriving DecidableEq, Repr

/-- The conditions of an IDCODE payload: the width check excludes the two name lookups, which do not exclude each
other (R129 (3), (4)). -/
def idcodeConditions (b : Bits) : List Condition :=
  if b.length ≠ Config.idcodeWidth then [.malformedShift]
  else
    (if (idcodeFields b).manufacturer = 0x01F#11 then [] else [.manufUnknown])
      ++ (if (partLookup (idcodeFields b).part).isSome then [] else [.partUnknown])

/-- The conditions of a frame: the length check excludes the parity check (R129 (2)). -/
def frameConditions (frame : Bits) : List Condition :=
  if frame.length ≠ Config.frameWidth then [.pdiMalformed]
  else if frameOk frame then [] else [.parity]

/-- The conditions of a step: kind and `sel` choose first (R129 (1)). -/
def conditions (sel : Sel) : Event → List Condition
  | .notify => [.ignored]
  | .ir p => if irName p.bits = .unknown then [.irUnknown] else []
  | .drTdi p =>
    match sel with
    | .idle | .idcode | .unknown => [.ignored]
    | .bypass => []
    | .pdicom => frameConditions p.bits
  | .drTdo p =>
    match sel with
    | .idle | .unknown => [.ignored]
    | .bypass => []
    | .idcode => idcodeConditions p.bits
    | .pdicom => frameConditions p.bits

end Sys2Proof.Machine
end

