-- ==== Sys2Proof/Machine/Reference.lean ====
section
/-! DEFINITION. The step function as R60 writes it, on `sel`, `ranges` and the event alone, and the transition table of
R77: a second writing of the block, by event kind and not by dispatch key, that the machine is held against. -/

namespace Sys2Proof.Machine

/-- What R60's `step` returns. -/
structure StepResult where
  sel : Sel
  ranges : List SampleRange
  out : List Record
  pdi : Option PdiResult
deriving DecidableEq, Repr

/-- The result of the extractor as R98 exposes it. -/
def pdiOf (dir : Direction) (r : BitVec 8 × Bool) : PdiResult :=
  ⟨dir, r.1, r.2⟩

/-- `step(sel, ranges, ev)` of R60, line for line. -/
def refStep (sel : Sel) (ranges : List SampleRange) : Event → StepResult
  | .notify => ⟨sel, ranges, [], none⟩
  | .ir p =>
    let name := irName p.bits
    ⟨name.toSel, p.rangesRaw.reverse, [⟨p.ss, p.es, .item, .sel name⟩], none⟩
  | .drTdi p =>
    let rs := p.rangesRaw.reverse
    match sel with
    | .idle => ⟨.idle, rs, [], none⟩
    | .bypass => ⟨.idle, rs, [⟨p.ss, p.es, .item, .bits p.bits⟩], none⟩
    | .idcode => ⟨.idcode, rs, [], none⟩
    | .pdicom =>
      let r := validateAndAnnotate p.bits .toDevice rs
      ⟨.pdicom, rs, r.1, some (pdiOf .toDevice r.2)⟩
    | .unknown => ⟨.unknown, rs, [], none⟩
  | .drTdo p =>
    let rs := p.rangesRaw.reverse
    match sel with
    | .idle => ⟨.idle, rs, [], none⟩
    | .bypass => ⟨.idle, rs, [⟨p.ss, p.es, .item, .bits p.bits⟩], none⟩
    | .idcode => ⟨.idle, rs, idcodeRecords p rs, none⟩
    | .pdicom =>
      let r := validateAndAnnotate p.bits .toHost rs
      ⟨.pdicom, rs, ⟨p.ss, p.es, .command, .pdicom⟩ :: r.1, some (pdiOf .toHost r.2)⟩
    | .unknown => ⟨.unknown, rs, [], none⟩

/-- A run of R60's step over an event sequence (R150): the final `sel` and `ranges`, the records and the frame results
of all steps, concatenated in event order (R36). -/
def refRun (sel : Sel) (ranges : List SampleRange) : List Event → Sel × List SampleRange × List Record × List PdiResult
  | [] => (sel, ranges, [], [])
  | e :: es =>
    let r := refStep sel ranges e
    let t := refRun r.sel r.ranges es
    (t.1, t.2.1, r.out ++ t.2.2.1, r.pdi.toList ++ t.2.2.2)

/-! ## The transition table -/

/-- The next `sel` of R77's table. -/
def tableNextSel (sel : Sel) : Event → Sel
  | .notify => sel
  | .ir p =>
    if irOpcode p.bits = [false, false, true, true] then .idcode
    else if irOpcode p.bits = [false, true, true, true] then .pdicom
    else if irOpcode p.bits = [true, true, true, true] then .bypass
    else .unknown
  | .drTdi _ => if sel = .bypass then .idle else sel
  | .drTdo _ => if sel = .bypass ∨ sel = .idcode then .idle else sel

/-- `f` of R77 (R99 (a)): 0 records for a malformed frame, 2 for a valid one, 3 for a parity failure. -/
def tableFrameCount (frame : Bits) : Nat :=
  match frameClass frame with
  | .malformed => 0
  | .data => 2
  | _ => 3

/-- The number of records of R77's table. -/
def tableCount (sel : Sel) : Event → Nat
  | .notify => 0
  | .ir _ => 1
  | .drTdi p =>
    match sel with
    | .bypass => 1
    | .pdicom => tableFrameCount p.bits
    | _ => 0
  | .drTdo p =>
    match sel with
    | .bypass => 1
    | .idcode => if p.bits.length = 32 then 6 else 1
    | .pdicom => 1 + tableFrameCount p.bits
    | _ => 0

end Sys2Proof.Machine
end

