-- ==== Sys2Proof/Safety.lean ====
section
/-! DEFINITION. What the statements are said in: which records are as the spec says a record is (R48, R50), the
invariant of the outputs, a stream of well-formed entries (R41), and what the block is observed by. -/

namespace Sys2Proof

/-- A data-register event, of either direction. -/
def Event.isDr : Event → Bool
  | .drTdi _ | .drTdo _ => true
  | _ => false

/-- The direction of a data-register event (R9); `toDevice` for the others, where no rule asks. -/
def Event.direction : Event → Direction
  | .drTdo _ => .toHost
  | _ => .toDevice

/-- The bits an entry delivers device to host: those of a DR_TDO event, or of the second event of SHIFT_DR (R55). -/
def Item.tdoBits : Item → Option Bits
  | .event (.drTdo p) => some p.bits
  | .shiftDr _ tdo => some tdo
  | _ => none

end Sys2Proof

namespace Sys2Proof.Machine

/-- A record has the category its payload goes with (R48, R50), and an IDCODE warning is about a wrong width (R82).
The categories no rule emits (R48, U7) go with no payload. -/
def recordOk (r : Record) : Bool :=
  match r.payload with
  | .sel _ => r.cat == .item
  | .bits _ => r.cat == .item
  | .reserved => r.cat == .field
  | .manuf _ => r.cat == .field
  | .part _ => r.cat == .field
  | .version _ => r.cat == .field
  | .idcode _ => r.cat == .item
  | .idcodeCmd _ => r.cat == .command
  | .pdicom => r.cat == .command
  | .byte _ => r.cat == .dataIn || r.cat == .dataOut
  | .parity ok => r.cat == parityCat .toDevice ok || r.cat == parityCat .toHost ok
  | .special _ => r.cat == .dataProg || r.cat == .dataDev
  | .malformedShift n => r.cat == .warning && n != 32

/-- The seven declared categories no rule the source gives emits, less `warning`, which R82 emits (R48, U7). -/
def neverEmitted (c : Category) : Bool :=
  c == .brk || c == .opcode || c == .pdiBreak || c == .enable || c == .disable || c == .cmdData

/-- The invariant of the outputs: every record the sink has is as R48 and R50 say, the last step's records are the
last ones the sink received, at most six of them (R36, R60), and the last frame result is the last one reported. -/
def State.OutputsOk (s : State) : Prop :=
  (∀ r ∈ s.sink, recordOk r = true) ∧ s.out <:+ s.sink ∧ s.out.length ≤ 6 ∧ s.pdi.toList <:+ s.results

/-- Every entry still to come is well formed. -/
def State.StreamOk (s : State) : Prop :=
  ∀ x ∈ s.stream, x.wf = true

/-- `n` steps, one after another (R36, R150): it stops where a step stops. -/
def run : Nat → State → Outcome
  | 0, s => .next s
  | n + 1, s => andThen (step s) (run n)

/-- The parts of a state the step of R60 reads and returns. -/
def State.result (s : State) : StepResult :=
  ⟨s.sel, s.ranges, s.out, s.pdi⟩

/-- Two states that differ, if at all, in the latch and in what was emitted before: what R11 says no rule observes. -/
def State.SameSelection (s t : State) : Prop :=
  s.sel = t.sel ∧ s.stream = t.stream

/-- The key of the event, met with `sel`, matches a row of R42's operation map (`pattern` under `mask`), and the
decoder reads the operation `i` from it. -/
def KeySelects (pattern mask : BitVec 10) (sel : Sel) (e : Event) (i : Instr) : Prop :=
  dispatchKey sel e &&& mask = pattern ∧ decode (e.packet sel) = .ok i

/-- The direction and frame result of a data-register event run through the extractor (R96 to R98). -/
def frameResult (e : Event) : PdiResult :=
  match e with
  | .drTdo p => pdiOf .toHost (validateAndAnnotate p.bits .toHost p.rangesRaw.reverse).2
  | e => pdiOf .toDevice (validateAndAnnotate e.shift.bits .toDevice e.shift.rangesRaw.reverse).2

/-- The records of a data-register event met in PDICOM (R73, R74): device to host the command record first, then the
extractor's. -/
def frameRecords (e : Event) : List Record :=
  match e with
  | .drTdo p => ⟨p.ss, p.es, .command, .pdicom⟩ :: (validateAndAnnotate p.bits .toHost p.rangesRaw.reverse).1
  | e => (validateAndAnnotate e.shift.bits .toDevice e.shift.rangesRaw.reverse).1

/-- The state after a step that emits the records `rs`, and nothing else but what is named: `sel` and `ranges` as
given, the records in `out` and at the end of `sink`. -/
def State.emitted (s : State) (sel : Sel) (ranges : List SampleRange) (rs : List Record) : State :=
  { s with sel := sel, ranges := ranges, out := rs, pdi := none, sink := s.sink ++ rs }

/-- The same with a frame result. -/
def State.framed (s : State) (ranges : List SampleRange) (rs : List Record) (r : PdiResult) : State :=
  { s with ranges := ranges, out := rs, pdi := some r, sink := s.sink ++ rs, results := s.results ++ [r] }

end Sys2Proof.Machine
end

