-- ==== Sys2Proof/Certificates/Slice0/Obligations.lean ====
section
/-! DEFINITION. The statements for the provers. A docstring names the rule a statement formalises; where a clause rests
on a decision of the spec's own (92_eei_decisions.md) or on a choice of the model, it names the decision and the log
entry, and the statement is listed as derived. -/

open Sys2Proof Sys2Proof.Machine

/-! ## Encoding and decoding -/

/-- Decode and encode agree on every well-formed operation (R42, R46, R55; the packet form is the model's, log
entry 10). -/
def Obligations.DecodeEncodeRoundTrip : Prop :=
  ∀ i : Instr, i.wf = true → decode (encode i) = .ok i

/-- The decoder loses nothing of a stream entry: a well-formed entry, met with any `sel`, decodes to a well-formed
operation whose entry it is and which that `sel` selects (R42, R78; log entries 1, 4). -/
def Obligations.EveryWellFormedEntryDecodes : Prop :=
  ∀ (sel : Sel) (x : Item), x.wf = true →
    ∃ i, decode (x.packet sel) = .ok i ∧ i.wf = true ∧ itemOf i = x ∧ (selFor i = none ∨ selFor i = some sel)

/-- Exactly one row of R42's operation map matches the key of a well-formed event, in every state (R78: "exactly one of
rules R61 to R76 applies"). -/
def Obligations.EveryKeyMeetsExactlyOneRow : Prop :=
  ∀ (sel : Sel) (e : Event), e.wf = true → ∃! r, r ∈ kRows ∧ r.hits (dispatchKey sel e) = true

/-- The dispatch key keeps its four fields apart (R42): kind, `sel`, `short` and `ir4` are read back from it. -/
def Obligations.DispatchKeyFieldsReadBack : Prop :=
  ∀ (sel : Sel) (e : Event),
    (dispatchKey sel e).extractLsb' 8 2 = e.kind.code ∧ Sel.ofCode (keySel (dispatchKey sel e)) = some sel
      ∧ keyShort (dispatchKey sel e) = e.short ∧ keyIr4 (dispatchKey sel e) = e.ir4

/-- Words of the opcode table, written out, decode to the operations they stand for (sanity). What the spec gives is the
words of the rows; how a bare word is read is the model's DESIGN CHOICE, log entry 10: a payload of zeros, or none, with
sample numbers zero, and 0x1BB as a `toDevice` frame, where as a key it would meet IR.UNKNOWN's short row with a `sel`
code that is never held. -/
def Obligations.WrittenWordsDecode : Prop :=
  decodeTableWord 16 0b0000000000 = some .notify
    ∧ decodeTableWord 16 0b0100001111 = some (.irBypass (zeroShift [true, true, true, true]))
    ∧ decodeTableWord 16 0b1101000000 = some (.drTdoIdcode Shift.none)
    ∧ decodeTableWord 16 0b1001100000 = some (.drTdiPdicom Shift.none)
    ∧ decodeTableWord 16 0b0110111011
        = some (.pdiBreak .toDevice (zeroShift [true, true, false, true, true, true, false, true, true]))

/-- When the next entry decodes to `i`, the step consumes the entry and is `exec` of `i` (R33, R60; log entry 1). -/
def Obligations.StepRunsTheDecodedOperation : Prop :=
  ∀ (s : State) (x : Item) (rest : List Item) (i : Instr), s.stream = x :: rest → decode (x.packet s.sel) = .ok i →
    i.wf = true → step s = exec i { s with stream := rest }

/-- A table word placed by `withFetchWord` is what the next step runs (model's choice, log entries 1 and 10). -/
def Obligations.PlacedWordIsRunNext : Prop :=
  ∀ (s : State) (nbits w : Nat) (i : Instr), decodeTableWord nbits w = some i →
    step (s.withFetchWord nbits w) = exec i { s with sel := (selFor i).getD s.sel }

/-- A step is taken exactly when there is an entry and it is well formed (R41, R78, R120; stops: log entries 2, 13). -/
def Obligations.StepIsTakenExactlyOnWellFormedEntries : Prop :=
  ∀ s : State, (∃ t, step s = .next t) ↔ ∃ x rest, s.stream = x :: rest ∧ x.wf = true

/-- An ill-formed entry is refused by name, whatever the state (R41, decision D21; log entry 13). -/
def Obligations.IllFormedEntryIsRefused : Prop :=
  ∀ (s : State) (x : Item) (rest : List Item), s.stream = x :: rest → x.wf = false →
    ∃ why, step s = .refused (.illFormed why)

/-! ## The dispatcher's operations: each completes, and this is its next state -/

/-- NOTIFY changes nothing but the step's own outputs, which are empty (R61; decision D26). -/
def Obligations.NotifyIsANoOp : Prop :=
  ∀ s : State, KeySelects 0x000#10 0x300#10 s.sel .notify .notify
    ∧ exec .notify s = .next { s with out := [], pdi := none }

/-- IR.IDCODE, IR.PDICOM, IR.BYPASS (R62 to R65): in every state, a payload of any length whose first four bits are the
opcode selects the register and emits one record (category and span: decision D9, log entry 15). That an IR event writes
the latch, reversed, is R11 and R60 by the spec's decision D7 (log entry 12). -/
def Obligations.KnownIrOpcodesSelectTheirRegister : Prop :=
  ∀ (s : State) (p : Shift), p.paired = true →
    (slice 0 4 p.bits = [false, false, true, true] →
      KeySelects 0x103#10 0x31F#10 s.sel (.ir p) (.irIdcode p)
        ∧ exec (.irIdcode p) s = .next (s.emitted .idcode p.rangesRaw.reverse [⟨p.ss, p.es, .item, .sel .idcode⟩]))
    ∧ (slice 0 4 p.bits = [false, true, true, true] →
      KeySelects 0x107#10 0x31F#10 s.sel (.ir p) (.irPdicom p)
        ∧ exec (.irPdicom p) s = .next (s.emitted .pdicom p.rangesRaw.reverse [⟨p.ss, p.es, .item, .sel .pdicom⟩]))
    ∧ (slice 0 4 p.bits = [true, true, true, true] →
      KeySelects 0x10F#10 0x31F#10 s.sel (.ir p) (.irBypass p)
        ∧ exec (.irBypass p) s = .next (s.emitted .bypass p.rangesRaw.reverse [⟨p.ss, p.es, .item, .sel .bypass⟩]))

/-- IR.UNKNOWN (R66): every other payload, and every payload shorter than four bits (decision D10), selects UNKNOWN and
still emits its record (decision D9; log entries 15, 16). The latch of an IR event is R11 and R60 by decision D7 (log
entry 12). -/
def Obligations.OtherIrPayloadsSelectUnknown : Prop :=
  ∀ (s : State) (p : Shift), p.paired = true → slice 0 4 p.bits ≠ [false, false, true, true] →
    slice 0 4 p.bits ≠ [false, true, true, true] → slice 0 4 p.bits ≠ [true, true, true, true] →
    (if p.bits.length < 4 then KeySelects 0x110#10 0x310#10 s.sel (.ir p) (.irUnknown p)
      else KeySelects (0x100#10 + BitVec.ofNat 10 (val (slice 0 4 p.bits))) 0x31F#10 s.sel (.ir p) (.irUnknown p))
    ∧ exec (.irUnknown p) s = .next (s.emitted .unknown p.rangesRaw.reverse [⟨p.ss, p.es, .item, .sel .unknown⟩])

/-- DR_TDI.IDLE, DR_TDO.IDLE, DR_TDI.IDCODE, DR_TDI.UNKNOWN, DR_TDO.UNKNOWN (R67, R68, R71, R75, R76): dropped. `sel` and
everything emitted before stay; only the latch and the step's empty outputs are written. That a dropped shift writes the
latch too, reversed, is R11 and R60 by the spec's decision D7 (log entry 12). -/
def Obligations.DroppedShiftsOnlyWriteTheLatch : Prop :=
  ∀ (s : State) (p : Shift), p.paired = true →
    (s.sel = .idle →
      (KeySelects 0x200#10 0x3E0#10 s.sel (.drTdi p) (.drTdiIdle p)
        ∧ exec (.drTdiIdle p) s = .next (s.emitted .idle p.rangesRaw.reverse []))
      ∧ KeySelects 0x300#10 0x3E0#10 s.sel (.drTdo p) (.drTdoIdle p)
        ∧ exec (.drTdoIdle p) s = .next (s.emitted .idle p.rangesRaw.reverse []))
    ∧ (s.sel = .idcode →
      KeySelects 0x240#10 0x3E0#10 s.sel (.drTdi p) (.drTdiIdcode p)
        ∧ exec (.drTdiIdcode p) s = .next (s.emitted .idcode p.rangesRaw.reverse []))
    ∧ (s.sel = .unknown →
      (KeySelects 0x280#10 0x3E0#10 s.sel (.drTdi p) (.drTdiUnknown p)
        ∧ exec (.drTdiUnknown p) s = .next (s.emitted .unknown p.rangesRaw.reverse []))
      ∧ KeySelects 0x380#10 0x3E0#10 s.sel (.drTdo p) (.drTdoUnknown p)
        ∧ exec (.drTdoUnknown p) s = .next (s.emitted .unknown p.rangesRaw.reverse []))

/-- DR_TDI.BYPASS and DR_TDO.BYPASS (R69, R70, R80): one item record with the bits as they are, and `sel` is IDLE. That
any number of bits will do, 0 included, is the spec's decision D12 (log entry 19), and the latch is its decision D7 (log
entry 12). -/
def Obligations.BypassShiftIsReportedOnceAndEnds : Prop :=
  ∀ (s : State) (p : Shift), p.paired = true → s.sel = .bypass →
    (KeySelects 0x220#10 0x3E0#10 s.sel (.drTdi p) (.drTdiBypass p)
      ∧ exec (.drTdiBypass p) s = .next (s.emitted .idle p.rangesRaw.reverse [⟨p.ss, p.es, .item, .bits p.bits⟩]))
    ∧ KeySelects 0x320#10 0x3E0#10 s.sel (.drTdo p) (.drTdoBypass p)
      ∧ exec (.drTdoBypass p) s = .next (s.emitted .idle p.rangesRaw.reverse [⟨p.ss, p.es, .item, .bits p.bits⟩])

/-- DR_TDO.IDCODE on the 32-bit string built from four fields (R72, R81, R83, R86): the six records carry exactly those
fields and the assembled word, and `sel` is IDLE (layout: decision D6, latch: D7, spans: D8 and D13; log entries 11, 12,
15). -/
def Obligations.IdcodeShiftReportsItsFields : Prop :=
  ∀ (s : State) (p : Shift) (f : IdcodeFields), s.sel = .idcode → p.paired = true → p.bits = assembleIdcode f →
    KeySelects 0x340#10 0x3E0#10 s.sel (.drTdo p) (.drTdoIdcode p)
    ∧ exec (.drTdoIdcode p) s = .next (s.emitted .idle p.rangesRaw.reverse
        [spanRecord p.rangesRaw.reverse 0 0 .field .reserved,
         spanRecord p.rangesRaw.reverse 1 11 .field (.manuf f.manufacturer),
         spanRecord p.rangesRaw.reverse 12 27 .field (.part f.part),
         spanRecord p.rangesRaw.reverse 28 31 .field (.version f.version),
         ⟨p.ss, p.es, .item, .idcode (BitVec.ofBool f.reserved ++ f.manufacturer ++ f.part ++ f.version)⟩,
         ⟨p.ss, p.es, .command, .idcodeCmd (BitVec.ofBool f.reserved ++ f.manufacturer ++ f.part ++ f.version)⟩])

/-- DR_TDO.IDCODE on any other length (R82, R126): one warning record, nothing decoded, `sel` is IDLE all the same (the
width check is decision D11, log entry 14; the latch is R11 and R60 by decision D7, log entry 12). -/
def Obligations.WrongWidthIdcodeGivesOneWarning : Prop :=
  ∀ (s : State) (p : Shift), s.sel = .idcode → p.paired = true → p.bits.length ≠ 32 →
    KeySelects 0x340#10 0x3E0#10 s.sel (.drTdo p) (.drTdoIdcode p)
    ∧ exec (.drTdoIdcode p) s = .next (s.emitted .idle p.rangesRaw.reverse
        [⟨p.ss, p.es, .warning, .malformedShift p.bits.length⟩])

/-- DR_TDI.PDICOM on a 9-bit frame (R73, R91 to R94, R96): the byte and parity records, a special-character record when
the ones among the nine bits are odd in number, the frame result, and PDICOM stays (latch: D7; spans: D8, D14; result:
D16; log entries 11, 12, 15, 17). -/
def Obligations.PdicomInputFrameIsAnnotated : Prop :=
  ∀ (s : State) (p : Shift) (par : Bool) (d : BitVec 8), s.sel = .pdicom → p.paired = true →
    p.bits = par :: bin 8 d.toNat →
    KeySelects 0x260#10 0x3E0#10 s.sel (.drTdi p) (.drTdiPdicom p)
    ∧ exec (.drTdiPdicom p) s =
      if (popcount (bin 8 d.toNat) + par.toNat) % 2 = 0 then
        .next (s.framed p.rangesRaw.reverse
          [spanRecord p.rangesRaw.reverse 1 8 .dataIn (.byte d),
           spanRecord p.rangesRaw.reverse 0 0 .parityInOk (.parity true)] ⟨.toDevice, d, true⟩)
      else
        .next (s.framed p.rangesRaw.reverse
          [spanRecord p.rangesRaw.reverse 1 8 .dataIn (.byte d),
           spanRecord p.rangesRaw.reverse 0 0 .parityInErr (.parity false),
           spanRecord p.rangesRaw.reverse 1 8 .dataProg (.special (specialOf d))] ⟨.toDevice, d, false⟩)

/-- DR_TDO.PDICOM on a 9-bit frame (R74, R91 to R94, R97): the PDICOM command record first, then as for the input
direction with the device-to-host categories (latch: D7; command record: D13, D15; spans: D8, D14; result: D16; log
entries 11, 12, 15, 17). -/
def Obligations.PdicomOutputFrameIsAnnotated : Prop :=
  ∀ (s : State) (p : Shift) (par : Bool) (d : BitVec 8), s.sel = .pdicom → p.paired = true →
    p.bits = par :: bin 8 d.toNat →
    KeySelects 0x360#10 0x3E0#10 s.sel (.drTdo p) (.drTdoPdicom p)
    ∧ exec (.drTdoPdicom p) s =
      if (popcount (bin 8 d.toNat) + par.toNat) % 2 = 0 then
        .next (s.framed p.rangesRaw.reverse
          [⟨p.ss, p.es, .command, .pdicom⟩,
           spanRecord p.rangesRaw.reverse 1 8 .dataOut (.byte d),
           spanRecord p.rangesRaw.reverse 0 0 .parityOutOk (.parity true)] ⟨.toHost, d, true⟩)
      else
        .next (s.framed p.rangesRaw.reverse
          [⟨p.ss, p.es, .command, .pdicom⟩,
           spanRecord p.rangesRaw.reverse 1 8 .dataOut (.byte d),
           spanRecord p.rangesRaw.reverse 0 0 .parityOutErr (.parity false),
           spanRecord p.rangesRaw.reverse 1 8 .dataDev (.special (specialOf d))] ⟨.toHost, d, false⟩)

/-- A PDICOM shift that is not 9 bits long (R73, R74, R90, R124): the extractor emits nothing and returns `(0, false)`;
device to host, the command record alone remains (conflict C6, decision D15, log entry 17; its span: decision D13, log
entry 15); PDICOM stays. The pair is visible as the frame result by R98 and decision D16 (log entry 17), and the latch is
R11 and R60 by decision D7 (log entry 12). -/
def Obligations.MalformedPdicomFrameIsDropped : Prop :=
  ∀ (s : State) (p : Shift), s.sel = .pdicom → p.paired = true → p.bits.length ≠ 9 →
    (KeySelects 0x260#10 0x3E0#10 s.sel (.drTdi p) (.drTdiPdicom p)
      ∧ exec (.drTdiPdicom p) s = .next (s.framed p.rangesRaw.reverse [] ⟨.toDevice, 0#8, false⟩))
    ∧ KeySelects 0x360#10 0x3E0#10 s.sel (.drTdo p) (.drTdoPdicom p)
      ∧ exec (.drTdoPdicom p) s =
        .next (s.framed p.rangesRaw.reverse [⟨p.ss, p.es, .command, .pdicom⟩] ⟨.toHost, 0#8, false⟩)

/-! ## The extractor's operations, the shorthands and reset -/

/-- PDI.MALFORMED (R90): no record, `(0, false)`, for every length but 9; nothing else is touched (as a
stream entry: log entry 4; visible result: D16, log entry 17). -/
def Obligations.MalformedFrameGivesNothing : Prop :=
  ∀ (s : State) (dir : Direction) (p : Shift), p.paired = true → p.bits.length ≠ 9 →
    decode (Item.packet s.sel (.frame dir p)) = .ok (.pdiMalformed dir p)
    ∧ exec (.pdiMalformed dir p) s = .next (s.framed s.ranges [] ⟨dir, 0#8, false⟩)

/-- PDI.BREAK, PDI.DELAY, PDI.EMPTY (R47, R94): the three frames `110111011`, `111011011`, `111101011` give their byte,
a parity error and their special character (span: D14, log entry 15; as stream entries: log entry 4; visible result: D16,
log entry 17). -/
def Obligations.SpecialCharacterFramesAreNamed : Prop :=
  ∀ (s : State) (dir : Direction) (p : Shift), p.paired = true →
    (p.bits = bin 9 0x1BB →
      decode (Item.packet s.sel (.frame dir p)) = .ok (.pdiBreak dir p)
      ∧ exec (.pdiBreak dir p) s = .next (s.framed s.ranges
          [spanRecord p.rangesRaw.reverse 1 8 (dataCat dir) (.byte 0xBB#8),
           spanRecord p.rangesRaw.reverse 0 0 (parityCat dir false) (.parity false),
           spanRecord p.rangesRaw.reverse 1 8 (specialCat dir) (.special .brk)] ⟨dir, 0xBB#8, false⟩))
    ∧ (p.bits = bin 9 0x1DB →
      decode (Item.packet s.sel (.frame dir p)) = .ok (.pdiDelay dir p)
      ∧ exec (.pdiDelay dir p) s = .next (s.framed s.ranges
          [spanRecord p.rangesRaw.reverse 1 8 (dataCat dir) (.byte 0xDB#8),
           spanRecord p.rangesRaw.reverse 0 0 (parityCat dir false) (.parity false),
           spanRecord p.rangesRaw.reverse 1 8 (specialCat dir) (.special .delay)] ⟨dir, 0xDB#8, false⟩))
    ∧ (p.bits = bin 9 0x1EB →
      decode (Item.packet s.sel (.frame dir p)) = .ok (.pdiEmpty dir p)
      ∧ exec (.pdiEmpty dir p) s = .next (s.framed s.ranges
          [spanRecord p.rangesRaw.reverse 1 8 (dataCat dir) (.byte 0xEB#8),
           spanRecord p.rangesRaw.reverse 0 0 (parityCat dir false) (.parity false),
           spanRecord p.rangesRaw.reverse 1 8 (specialCat dir) (.special .empty)] ⟨dir, 0xEB#8, false⟩))

/-- PDI.DATA and PDI.INVALID (R47, R92 to R94): for every parity bit and byte, even gives the two records of a byte with
valid parity; odd, for a byte that is none of the three, gives three with the label INVALID (span: D14,
log entry 15; as stream entries: log entry 4; visible result: D16, log entry 17). -/
def Obligations.OtherFramesAreDataOrInvalid : Prop :=
  ∀ (s : State) (dir : Direction) (p : Shift) (par : Bool) (d : BitVec 8), p.paired = true →
    p.bits = par :: bin 8 d.toNat →
    ((popcount (bin 8 d.toNat) + par.toNat) % 2 = 0 →
      decode (Item.packet s.sel (.frame dir p)) = .ok (.pdiData dir p)
      ∧ exec (.pdiData dir p) s = .next (s.framed s.ranges
          [spanRecord p.rangesRaw.reverse 1 8 (dataCat dir) (.byte d),
           spanRecord p.rangesRaw.reverse 0 0 (parityCat dir true) (.parity true)] ⟨dir, d, true⟩))
    ∧ ((popcount (bin 8 d.toNat) + par.toNat) % 2 = 1 → d ≠ 0xBB#8 → d ≠ 0xDB#8 → d ≠ 0xEB#8 →
      decode (Item.packet s.sel (.frame dir p)) = .ok (.pdiInvalid dir p)
      ∧ exec (.pdiInvalid dir p) s = .next (s.framed s.ranges
          [spanRecord p.rangesRaw.reverse 1 8 (dataCat dir) (.byte d),
           spanRecord p.rangesRaw.reverse 0 0 (parityCat dir false) (.parity false),
           spanRecord p.rangesRaw.reverse 1 8 (specialCat dir) (.special .invalid)] ⟨dir, d, false⟩))

/-- The operations by frame class are the extractor: on every paired payload, the operation the frame decodes to emits
the records and returns the pair of `validate_and_annotate`, and touches neither `sel` nor `ranges` (R90 to
R99; as stream entries: log entry 4; spans: D8, D14, visible result: D16, log entries 11, 15, 17). -/
def Obligations.FrameOperationsAreTheExtractor : Prop :=
  ∀ (s : State) (dir : Direction) (p : Shift), p.paired = true →
    ∃ i, decode (Item.packet s.sel (.frame dir p)) = .ok i
      ∧ exec i s = .next (s.framed s.ranges (validateAndAnnotate p.bits dir p.rangesRaw.reverse).1
          (pdiOf dir (validateAndAnnotate p.bits dir p.rangesRaw.reverse).2))

/-- SELECT (R55, decision D29; in one step: log entry 5): it does what the IR event with the 4-bit opcode of the name does,
and selects that register (R62). The record's category and span are decision D9 (log entry 15), and the latch is R11 and
R60 by decision D7 (log entry 12). -/
def Obligations.SelectIsTheIrEventOfItsName : Prop :=
  ∀ (s : State) (name : Selectable) (rangesRaw : List SampleRange) (ss es : Sample), rangesRaw.length = 4 →
    (∃ i, decode (Event.packet s.sel (.ir ⟨name.opcode, rangesRaw, ss, es⟩)) = .ok i
      ∧ exec (.select name rangesRaw ss es) s = exec i s)
    ∧ exec (.select name rangesRaw ss es) s = .next (s.emitted name.toRegName.toSel rangesRaw.reverse
        [⟨ss, es, .item, .sel name.toRegName⟩])

/-- SHIFT_DR (R55): the DR_TDI event, then the DR_TDO event in the state it leaves, with the same bounds and ranges, each
the operation the dispatcher decodes there (order: decision D29; in one step: log entry 5). -/
def Obligations.ShiftDrIsTdiThenTdo : Prop :=
  ∀ (s : State) (tdi : Shift) (tdo : Bits), tdi.paired = true → tdo.length = tdi.bits.length →
    ∃ i t j u, decode (Event.packet s.sel (.drTdi tdi)) = .ok i ∧ exec i s = .next t
      ∧ decode (Event.packet t.sel (.drTdo { tdi with bits := tdo })) = .ok j ∧ exec j t = .next u
      ∧ exec (.shiftDr tdi tdo) s = .next u

/-- RESET (R135, R136): IDLE, no ranges, no record, no result, whatever was selected; what was emitted stays emitted
and what is still to come stays (the empty latch: decision D7; log entries 3, 6). -/
def Obligations.ResetForgetsTheSelection : Prop :=
  ∀ s : State, exec .reset s = .next { s with sel := .idle, ranges := [], out := [], pdi := none }

/-- After reset `sel` is IDLE and the latch is empty (R19; decision D7), its code is 000 (D3), and the model's own
fields are empty (log entries 1, 3). -/
def Obligations.ResetStateIsIdle : Prop :=
  State.reset.sel = .idle ∧ State.reset.sel.code = 0b000#3 ∧ State.reset.ranges = [] ∧ State.reset.out = []
    ∧ State.reset.pdi = none ∧ State.reset.sink = [] ∧ State.reset.results = [] ∧ State.reset.stream = []

/-! ## The machine and the step function of R60 -/

/-- Every step on a well-formed event is R60's step: `sel`, `ranges`, the record list and the frame result are the ones it
returns, and the records and the result go to the end of what the sink has (R36, R60). R60 takes in the spec's decisions
D7 (latch), D9, D13 and D14 (records), D10 (short IR payload), D11 (IDCODE width), D12 (BYPASS length), D15 and D16
(command record, visible result): log entries 12 and 14 to 19. The fields `sink` and `results` are the model's: log
entry 3. -/
def Obligations.StepIsTheStepFunction : Prop :=
  ∀ (s : State) (e : Event) (rest : List Item), s.stream = .event e :: rest → e.wf = true →
    ∃ t, step s = .next t ∧ t.result = refStep s.sel s.ranges e ∧ t.stream = rest
      ∧ t.sink = s.sink ++ t.out ∧ t.results = s.results ++ t.pdi.toList

/-- A run over any sequence of well-formed events completes, and its result is the one of R150: the final `sel`, and the
records and frame results of all steps concatenated in event order. That frame results are visible is the spec's decision
D16 (log entry 17); that `sink` and `results` hold what was emitted is the model's choice (log entry 3). -/
def Obligations.RunIsTheConcatenationOfItsSteps : Prop :=
  ∀ (s : State) (es : List Event), s.stream = es.map Item.event → (∀ e ∈ es, e.wf = true) →
    ∃ t, run es.length s = .next t ∧ t.stream = []
      ∧ t.sel = (refRun s.sel s.ranges es).1 ∧ t.ranges = (refRun s.sel s.ranges es).2.1
      ∧ t.sink = s.sink ++ (refRun s.sel s.ranges es).2.2.1
      ∧ t.results = s.results ++ (refRun s.sel s.ranges es).2.2.2

/-- The block takes every well-formed entry, in any order and number, with no fault and no refusal (R78, R120, R138): a run
over the whole stream completes, and only then is there nothing to step on (end of the stream: log entry 2). -/
def Obligations.EveryWellFormedStreamRunsToItsEnd : Prop :=
  ∀ s : State, s.StreamOk →
    ∃ t, run s.stream.length s = .next t ∧ t.stream = [] ∧ step t = .refused .endOfStream

/-- The transition table of R77, cell for cell: the next `sel` and the number of records of every step on a well-formed
event. Of its cells, the IR record is decision D9 (log entry 15), UNKNOWN for a short IR payload D10 (log entry 16), one
record for an IDCODE of another width D11 (log entry 14), one for a BYPASS payload of any length D12 (log entry 19), and
the command record of a malformed DR_TDO frame D15 (log entry 17). -/
def Obligations.StepsFollowTheTransitionTable : Prop :=
  ∀ (s t : State) (e : Event) (rest : List Item), s.stream = .event e :: rest → e.wf = true → step s = .next t →
    t.sel = tableNextSel s.sel e ∧ t.out.length = tableCount s.sel e

/-! ## Invariants and rules of the whole machine -/

/-- Every step keeps the invariant of the outputs: no record at the sink with a category its payload does not go with, the
records of `out` the last ones at the sink, at most six of them, and the frame result the last one reported (R36, R48,
R50, R60). And no step loses or reorders what was emitted before: `sink` and `results` only grow at their end (R36). The
bound is on `out`, which after SHIFT_DR holds the second event's records alone (log entry 5); the fields are log entry 3. -/
def Obligations.EveryStepKeepsOutputsOk : Prop :=
  ∀ s t : State, s.OutputsOk → step s = .next t →
    t.OutputsOk ∧ s.sink <+: t.sink ∧ s.results <+: t.results

/-- The invariant of the outputs holds after reset. It rests on `sink`, `results`, `out` and `pdi` being empty there, which
is the model's DESIGN CHOICE (log entry 3). -/
def Obligations.ResetHasOutputsOk : Prop :=
  State.reset.OutputsOk

/-- Among the records a step adds to the sink, the six categories no rule emits never appear, and `warning` appears only
where IDCODE is selected and the entry's device-to-host payload has another length than 32, which the record carries
(R48, U7, R82; the warning is decision D11, log entry 14). Both events of a SHIFT_DR count (log entry 5). -/
def Obligations.DeclaredOnlyCategoriesNeverAppear : Prop :=
  ∀ (s t : State) (x : Item) (rest : List Item), s.stream = x :: rest → step s = .next t →
    ∃ rs, t.sink = s.sink ++ rs ∧ ∀ r ∈ rs, neverEmitted r.cat = false
      ∧ (r.cat = .warning → s.sel = .idcode ∧ ∃ b, x.tdoBits = some b ∧ b.length ≠ 32
          ∧ r.payload = .malformedShift b.length)

/-- The "left by" column of R10: `sel` changes only by an IR event or reset, or, from BYPASS, by a DR event of either
direction, or, from IDCODE, by a DR_TDO event; so PDICOM and UNKNOWN are left by an IR event or reset only. -/
def Obligations.OnlyTheNamedEventsChangeSel : Prop :=
  ∀ (s t : State) (e : Event) (rest : List Item), s.stream = .event e :: rest → step s = .next t → t.sel ≠ s.sel →
    e.kind = .ir ∨ (s.sel = .bypass ∧ t.sel = .idle ∧ e.isDr = true)
      ∨ (s.sel = .idcode ∧ t.sel = .idle ∧ e.kind = .drTdo)

/-- After the step of a payload-bearing event the latch has one range per bit, and position `p` has the range delivered
at index `n-1-p` (R26). -/
def Obligations.LatchHoldsTheReversedRanges : Prop :=
  ∀ (s t : State) (e : Event) (rest : List Item), s.stream = .event e :: rest → e ≠ .notify → step s = .next t →
    t.ranges.length = e.shift.bits.length
    ∧ ∀ p, p < e.shift.bits.length → t.ranges[p]? = e.shift.rangesRaw[e.shift.bits.length - 1 - p]?

/-- What an earlier event left in the latch, and what was emitted before, is never observed (R11, R99 (e), R149): over any
number of steps, two states alike in `sel` and in the stream stay alike, stop alike, and emit the same records. -/
def Obligations.HistoryIsNeverObserved : Prop :=
  ∀ (n : Nat) (s s' t : State), s.SameSelection s' → run n s = .next t →
    ∃ t', run n s' = .next t' ∧ t.SameSelection t'
      ∧ ∃ rs results, t.sink = s.sink ++ rs ∧ t'.sink = s'.sink ++ rs
        ∧ t.results = s.results ++ results ∧ t'.results = s'.results ++ results

/-- The bits of an IR payload behind the first four are ignored (R44, R53, R146): two well-formed IR payloads that agree
in their first four bits and in their bounds do the same to `sel` and to the records. -/
def Obligations.IrBitsBehindTheOpcodeAreIgnored : Prop :=
  ∀ (s s' t t' : State) (p p' : Shift) (rest rest' : List Item),
    s.stream = .event (.ir p) :: rest → s'.stream = .event (.ir p') :: rest' →
    4 ≤ p.bits.length → 4 ≤ p'.bits.length → slice 0 4 p.bits = slice 0 4 p'.bits → p.ss = p'.ss → p.es = p'.es →
    step s = .next t → step s' = .next t' → t.sel = t'.sel ∧ t.out = t'.out

/-- The reserved bit of an IDCODE is checked against nothing (R53, R81, U2): a 32-bit payload with that bit inverted gives
the same four field records, and records of the same categories and spans. -/
def Obligations.ReservedBitIsIgnored : Prop :=
  ∀ (p : Shift) (b : Bool) (bs : Bits) (ranges : List SampleRange), bs.length = 31 →
    (idcodeRecords { p with bits := b :: bs } ranges).take 4 = (idcodeRecords { p with bits := (!b) :: bs } ranges).take 4
    ∧ (idcodeRecords { p with bits := b :: bs } ranges).map (fun r => (r.ss, r.es, r.cat))
      = (idcodeRecords { p with bits := (!b) :: bs } ranges).map (fun r => (r.ss, r.es, r.cat))

/-! ## Hazards: sequences of events -/

/-- BYPASS is consumed by the first DR event of either direction (R140): however many well-formed DR events follow, the
sink gets one record, with the bits of the first, whatever their number (decision D12, log entry 19; the field: log
entry 3). -/
def Obligations.OneBypassRecordPerSelection : Prop :=
  ∀ (s : State) (e : Event) (es : List Event), s.sel = .bypass → s.stream = (e :: es).map Item.event →
    (∀ x ∈ e :: es, x.wf = true ∧ x.isDr = true) →
    ∃ t, run (e :: es).length s = .next t ∧ t.sel = .idle
      ∧ t.sink = s.sink ++ [⟨e.shift.ss, e.shift.es, .item, .bits e.shift.bits⟩] ∧ t.results = s.results

/-- IDCODE waits for the device-to-host event (R141): DR_TDI events before it and DR events after it leave no record, and
the first DR_TDO event alone is decoded (its records: decisions D6, D8, D11, D13, log entries 11, 12, 14, 15; the fields:
log entry 3). -/
def Obligations.IdcodeWaitsForTheFirstTdo : Prop :=
  ∀ (s : State) (ps : List Shift) (q : Shift) (es : List Event), s.sel = .idcode →
    s.stream = (ps.map Event.drTdi ++ .drTdo q :: es).map Item.event →
    (∀ x ∈ ps.map Event.drTdi ++ .drTdo q :: es, x.wf = true ∧ x.isDr = true) →
    ∃ t, run (ps.length + 1 + es.length) s = .next t ∧ t.sel = .idle
      ∧ t.sink = s.sink ++ idcodeRecords q q.rangesRaw.reverse ∧ t.results = s.results

/-- PDICOM persists (R143): every DR event of either direction is run through the extractor, in order, and PDICOM is
still selected after any number of them. The sink gets, event by event, the command record of a DR_TDO event and the
extractor's records, and the results are the extractor's pairs (R73, R74; decisions D13 to D16, log entries 15 and 17). -/
def Obligations.PdicomPersistsOverDrEvents : Prop :=
  ∀ (s : State) (es : List Event), s.sel = .pdicom → s.stream = es.map Item.event →
    (∀ x ∈ es, x.wf = true ∧ x.isDr = true) →
    ∃ t, run es.length s = .next t ∧ t.sel = .pdicom
      ∧ t.sink = s.sink ++ es.flatMap frameRecords ∧ t.results = s.results ++ es.map frameResult

/-- An unrecognised IR payload silences every following DR event (R66, R121): the sink gets the IR record and nothing
else, and UNKNOWN stays selected (the record itself: decision D9, log entry 15; short payloads: D10, log entry 16; the
fields: log entry 3). -/
def Obligations.UnknownSelectionSilencesDrEvents : Prop :=
  ∀ (s : State) (p : Shift) (es : List Event), s.stream = (Event.ir p :: es).map Item.event → p.paired = true →
    irName p.bits = .unknown → (∀ x ∈ es, x.wf = true ∧ x.isDr = true) →
    ∃ t, run (es.length + 1) s = .next t ∧ t.sel = .unknown
      ∧ t.sink = s.sink ++ [⟨p.ss, p.es, .item, .sel .unknown⟩] ∧ t.results = s.results

/-! ## Bit strings, fields and spans -/

/-- `val` is the weighted sum of R6, position 0 most significant. -/
def Obligations.ValIsThePositionalSum : Prop :=
  ∀ b : Bits, val b = ∑ p : Fin b.length, (b.get p).toNat * 2 ^ (b.length - 1 - p)

/-- Value bit `k` is string position `n-1-k` (R7). -/
def Obligations.ValueBitIsStringPosition : Prop :=
  ∀ (b : Bits) (k : Nat), (val b).testBit k = if k < b.length then b.getD (b.length - 1 - k) false else false

/-- The fields taken by string positions are the fields of the word's value bits 31, 30:20, 19:4, 3:0, and every 32-bit
string is the construction of its fields (R45; layout: decision D6, log entry 12). -/
def Obligations.IdcodeFieldsAreTheWordsFields : Prop :=
  ∀ b : Bits, b.length = 32 → idcodeFields b = wordFields (idcodeWord b) ∧ assembleIdcode (idcodeFields b) = b

/-- R86: `idcode` inverts the construction for all field values, and with manufacturer 0x01F and part 0x9642 the names
are "Atmel" and "ATXMega64A3U". -/
def Obligations.IdcodeInvertsItsConstruction : Prop :=
  (∀ f : IdcodeFields, (assembleIdcode f).length = 32 ∧ idcodeFields (assembleIdcode f) = f
    ∧ val (assembleIdcode f)
      = f.reserved.toNat * 2 ^ 31 + f.manufacturer.toNat * 2 ^ 20 + f.part.toNat * 2 ^ 4 + f.version.toNat)
  ∧ ∀ (r : Bool) (v : BitVec 4),
    idcodeFields ([r] ++ [false, false, false, false, false, false, true, true, true, true, true]
        ++ [true, false, false, true, false, true, true, false, false, true, false, false, false, false, true, false]
        ++ bin 4 v.toNat) = ⟨r, 0x01F#11, 0x9642#16, v⟩
      ∧ manufName 0x01F#11 = "Atmel" ∧ partName 0x9642#16 = "ATXMega64A3U"

/-- `span(a, e)` within the range list is the earliest start and the latest end over its positions, each of them
reached; a single position gives its own range (R51; decision D8, log entry 11). -/
def Obligations.SpanIsEarliestStartLatestEnd : Prop :=
  ∀ (ranges : List SampleRange) (a e : Nat), a ≤ e → (h : e < ranges.length) →
    (∀ p (hp : p < ranges.length), a ≤ p → p ≤ e →
      (span ranges a e).1 ≤ ranges[p].1 ∧ ranges[p].2 ≤ (span ranges a e).2)
    ∧ (∃ p, ∃ hp : p < ranges.length, a ≤ p ∧ p ≤ e ∧ (span ranges a e).1 = ranges[p].1)
    ∧ (∃ p, ∃ hp : p < ranges.length, a ≤ p ∧ p ≤ e ∧ (span ranges a e).2 = ranges[p].2)
    ∧ (a = e → span ranges a e = ranges[e])

/-! ## Parity and special characters -/

/-- R92: validity is an even number of ones among the data bits plus the parity bit; equivalently the nine bits hold an
even number of ones; equivalently their exclusive-or is 0. -/
def Obligations.ParityIsEvenOverNineBits : Prop :=
  ∀ (par : Bool) (data : Bits), data.length = 8 →
    (frameOk (par :: data) = true ↔ (popcount data + par.toNat) % 2 = 0)
    ∧ (frameOk (par :: data) = true ↔ popcount (par :: data) % 2 = 0)
    ∧ (frameOk (par :: data) = true ↔ (par :: data).foldl xor false = false)

/-- Flipping exactly one bit among the nine always flips `parity_ok` (R99 (b)). -/
def Obligations.OneFlippedBitFlipsParity : Prop :=
  ∀ (frame : Bits) (i : Nat), frame.length = 9 → (h : i < frame.length) →
    frameOk (frame.set i (!frame[i])) = !frameOk frame

/-- For every byte exactly one parity bit is valid: the parity of its ones (R99 (c)); the byte read does not depend on it
(R99 (d)); and every 9-bit frame is a parity bit with the bits of its byte (R46). -/
def Obligations.EachByteHasOneValidParityBit : Prop :=
  (∀ (d : BitVec 8) (par : Bool),
    frameOk (par :: bin 8 d.toNat) = (par.toNat == popcount (bin 8 d.toNat) % 2)
      ∧ frameByte (par :: bin 8 d.toNat) = d)
  ∧ ∀ frame : Bits, frame.length = 9 → frame = framePar frame :: bin 8 (frameByte frame).toNat

/-- A special-character record appears exactly when a 9-bit frame fails parity, is then the third and last record, and
names the byte's label (R94, R99 (a), R148; its span is decision D14, log entry 15). -/
def Obligations.SpecialRecordExactlyOnParityFailure : Prop :=
  ∀ (frame : Bits) (dir : Direction) (ranges : List SampleRange),
    ((∃ r ∈ (validateAndAnnotate frame dir ranges).1, ∃ c, r.payload = .special c)
      ↔ frame.length = 9 ∧ frameOk frame = false)
    ∧ (frame.length = 9 → frameOk frame = false →
      (validateAndAnnotate frame dir ranges).1.length = 3
        ∧ (validateAndAnnotate frame dir ranges).1.getLast?
          = some (spanRecord ranges 1 8 (specialCat dir) (.special (specialOf (frameByte frame)))))

/-! ## Tables and labels -/

/-- R21: the three entries of `IRMAP` with their widths, and UNKNOWN of width 0 for any other key. That a key of fewer than
four bits is such a key is the spec's decision D10 (R29; log entry 16). -/
def Obligations.IrMapHasThreeEntries : Prop :=
  irMap [false, false, true, true] = (.idcode, 32) ∧ irMap [false, true, true, true] = (.pdicom, 9)
    ∧ irMap [true, true, true, true] = (.bypass, 1)
    ∧ ∀ k, k ≠ [false, false, true, true] → k ≠ [false, true, true, true] → k ≠ [true, true, true, true] →
      irMap k = (.unknown, 0)

/-- R22 and R24: the manufacturer table and the special-character table on every key. -/
def Obligations.ManufacturerAndSpecialTables : Prop :=
  manufName 0x01F#11 = "Atmel" ∧ (∀ m, m ≠ 0x01F#11 → manufName m = "INVALID")
    ∧ specialOf 0xBB#8 = .brk ∧ specialOf 0xDB#8 = .delay ∧ specialOf 0xEB#8 = .empty
    ∧ (∀ d, d ≠ 0xBB#8 → d ≠ 0xDB#8 → d ≠ 0xEB#8 → specialOf d = .invalid)

/-- R23: `PART_TABLE` has exactly four distinct keys, 0x9642 named "ATXMega64A3U" among them, and a key outside it gives
nothing, whatever the three open rows are (decision D18, log entry 7). -/
def Obligations.PartTableHasFourDistinctKeys : Prop :=
  partTable.length = 4 ∧ (partTable.map Prod.fst).Nodup ∧ partLookup 0x9642#16 = some "ATXMega64A3U"
    ∧ ∀ p, partLookup p = none ↔ p ∉ partTable.map Prod.fst

/-- R84, R108: the command record's label shows the same manufacturer, part and version texts as the three field
records of the same word; each text is the table's name, for every row of the part table, or its fallback (hex and dec
forms: decision D17, log entry 18; open part rows: log entry 7). -/
def Obligations.CommandLabelShowsTheFieldTexts : Prop :=
  ∀ f : IdcodeFields, ∃ m p : String,
    label .field (.manuf f.manufacturer) = "Manufacturer: " ++ m ∧ label .field (.part f.part) = "Part: " ++ p
    ∧ label .field (.version f.version) = "Version: " ++ dec f.version.toNat
    ∧ (f.manufacturer = 0x01F#11 → m = "Atmel") ∧ (f.manufacturer ≠ 0x01F#11 → m = "INVALID")
    ∧ (f.part = 0x9642#16 → p = "ATXMega64A3U") ∧ (∀ n, partLookup f.part = some n → p = n)
    ∧ (partLookup f.part = none → p = hex f.part.toNat)
    ∧ label .command (.idcodeCmd (idcodeWord (assembleIdcode f)))
      = "IDCODE: " ++ hex (val (assembleIdcode f)) ++ " (" ++ m ++ ": " ++ p ++ "@r" ++ dec f.version.toNat ++ ")"

/-! ## Conditions -/

/-- X_IGNORED (R127): it is met exactly by a notification, a DR event in IDLE or UNKNOWN, and a DR_TDI event in IDCODE,
and then nothing is recorded and `sel` is unchanged; it is the only condition then (R129 (1), which the spec derives). -/
def Obligations.IgnoredStepsRecordNothing : Prop :=
  ∀ (s t : State) (e : Event) (rest : List Item), s.stream = .event e :: rest → step s = .next t →
    (.ignored ∈ conditions s.sel e ↔
      e = .notify ∨ (e.isDr = true ∧ (s.sel = .idle ∨ s.sel = .unknown)) ∨ (e.kind = .drTdi ∧ s.sel = .idcode))
    ∧ (.ignored ∈ conditions s.sel e →
      conditions s.sel e = [.ignored] ∧ t.out = [] ∧ t.sink = s.sink ∧ t.sel = s.sel)

/-- R129: X_IGNORED, X_IR_UNKNOWN, X_PDI_MALFORMED, X_PARITY and X_MALFORMED_SHIFT each exclude every other condition; the
two name conditions alone may be met together. The length checks come first: a frame of another length is never a
parity failure, an IDCODE of another width never an unknown name. And each condition shows in the records of the step of
its event as R121 to R126 say, and, but for the length check of a frame, is told from them (X_MALFORMED_SHIFT: decision
D11, log entry 14; X_PDI_MALFORMED: D15 and D16, log entry 17; spans of X_PARITY's records: D14, log entry 15). -/
def Obligations.ConditionsExcludeEachOther : Prop :=
  (∀ (sel : Sel) (e : Event),
    ((conditions sel e).length ≤ 1 ∨ conditions sel e = [.manufUnknown, .partUnknown])
    ∧ (.parity ∈ conditions sel e → e.shift.bits.length = 9 ∧ sel = .pdicom)
    ∧ (.manufUnknown ∈ conditions sel e ∨ .partUnknown ∈ conditions sel e →
      e.shift.bits.length = 32 ∧ sel = .idcode ∧ e.kind = .drTdo)
    ∧ (.pdiMalformed ∈ conditions sel e ↔ sel = .pdicom ∧ e.isDr = true ∧ e.shift.bits.length ≠ 9)
    ∧ (.malformedShift ∈ conditions sel e ↔ sel = .idcode ∧ e.kind = .drTdo ∧ e.shift.bits.length ≠ 32))
  ∧ ∀ (s t : State) (e : Event) (rest : List Item), s.stream = .event e :: rest → step s = .next t →
    (.irUnknown ∈ conditions s.sel e ↔ ∃ r ∈ t.out, r.payload = .sel .unknown)
    ∧ (.manufUnknown ∈ conditions s.sel e ↔ ∃ r ∈ t.out, ∃ m, m ≠ 0x01F#11 ∧ r.payload = .manuf m)
    ∧ (.partUnknown ∈ conditions s.sel e ↔ ∃ r ∈ t.out, ∃ p, partLookup p = none ∧ r.payload = .part p)
    ∧ (.pdiMalformed ∈ conditions s.sel e → t.pdi = some ⟨e.direction, 0#8, false⟩
        ∧ t.out = if e.kind = .drTdo then [⟨e.shift.ss, e.shift.es, .command, .pdicom⟩] else [])
    ∧ (.parity ∈ conditions s.sel e ↔ ∃ r ∈ t.out, r.payload = .parity false)
    ∧ (.parity ∈ conditions s.sel e → ∃ d, t.pdi = some ⟨e.direction, d, false⟩
        ∧ parityRecord e.direction t.ranges false ∈ t.out ∧ specialRecord e.direction t.ranges (specialOf d) ∈ t.out)
    ∧ (.malformedShift ∈ conditions s.sel e ↔
        t.out = [⟨e.shift.ss, e.shift.es, .warning, .malformedShift e.shift.bits.length⟩])

/-! ## The text form -/

/-- Reading back a written line gives the entry, for every well-formed entry that has a text form (R54, R55; the writer's
full form is the model's choice, log entry 20). -/
def Obligations.WrittenLineReadsBack : Prop :=
  ∀ (x : Item) (line : List Char), x.wf = true → writeLine x = some line → readLine line = some x

/-- Without bounds and ranges the default convention applies (R54): the payload is well formed, position `p` of `n` bits has
the range `(10*(n-p), 10*(n-p)+9)`, and the bounds are 10 and `10*n+9`, or 0 and 0 for an empty payload. And that is what
the reader gives for a line without a suffix: for an event of each payload-bearing kind with the bits `b`, underscores
anywhere among them, or with no bits at all, and for the shorthands of R55 (the line's form: decision D29; its spacing, and
that bits may be left out: model's choice, log entry 20). -/
def Obligations.DefaultSampleNumbers : Prop :=
  (∀ b : Bits, (defaultShift b).paired = true ∧ (defaultShift b).bits = b
    ∧ (∀ p, p < b.length →
      (inStringOrder (defaultShift b).rangesRaw)[p]? = some (10 * (b.length - p), 10 * (b.length - p) + 9))
    ∧ (b = [] → (defaultShift b).ss = 0 ∧ (defaultShift b).es = 0)
    ∧ (b ≠ [] → (defaultShift b).ss = 10 ∧ (defaultShift b).es = 10 * b.length + 9))
  ∧ (∀ (b : Bits) (w : List Char), w.filter (· != '_') = b.map bitChar →
    readLine ("IR ".toList ++ w) = some (.event (.ir (defaultShift b)))
    ∧ readLine ("DR_TDI ".toList ++ w) = some (.event (.drTdi (defaultShift b)))
    ∧ readLine ("DR_TDO ".toList ++ w) = some (.event (.drTdo (defaultShift b)))
    ∧ ∀ (c : Bits) (v : List Char), v.filter (· != '_') = c.map bitChar → w ≠ [] → v ≠ [] →
      readLine ("SHIFT_DR ".toList ++ w ++ ' ' :: v) = some (.shiftDr (defaultShift b) c))
  ∧ readLine "IR".toList = some (.event (.ir (defaultShift [])))
  ∧ readLine "DR_TDI".toList = some (.event (.drTdi (defaultShift [])))
  ∧ readLine "DR_TDO".toList = some (.event (.drTdo (defaultShift [])))
  ∧ readLine "SHIFT_DR".toList = some (.shiftDr (defaultShift []) [])
  ∧ ∀ name, readLine ("SELECT ".toList ++ selectableWord name) = some (.select name
      (defaultShift name.opcode).rangesRaw (defaultShift name.opcode).ss (defaultShift name.opcode).es)
end

