-- ==== Sys2Proof/Laws/Bits.lean ====
section
/-! SUPPORT. Laws of bit strings: `val` by head and by end, its bound, `bin` as its inverse, lengths of slices. -/

namespace Sys2Proof

/-- Horner's scheme with a start value: the start is weighted by the length. -/
theorem foldl_val (b : Bits) (a : Nat) :
    b.foldl (fun acc x => 2 * acc + x.toNat) a = a * 2 ^ b.length + val b := by
  induction b generalizing a with
  | nil => simp [val]
  | cons x xs ih =>
    have h0 := ih x.toNat
    simp only [val, List.foldl_cons, List.length_cons, Nat.mul_zero, Nat.zero_add] at *
    rw [ih, h0]
    ring

@[simp] theorem val_nil : val [] = 0 := rfl

/-- The head is the most significant bit. -/
theorem val_cons (x : Bool) (b : Bits) : val (x :: b) = x.toNat * 2 ^ b.length + val b := by
  rw [← foldl_val b x.toNat]
  simp [val]

/-- Strings side by side: the left one is weighted by the length of the right one. -/
theorem val_append (a b : Bits) : val (a ++ b) = val a * 2 ^ b.length + val b := by
  rw [← foldl_val b (val a)]
  simp [val]

/-- The value of an `n`-bit string is below `2^n`. -/
theorem val_lt (b : Bits) : val b < 2 ^ b.length := by
  induction b with
  | nil => simp
  | cons x xs ih =>
    rw [val_cons, List.length_cons, Nat.pow_succ]
    cases x <;> simp <;> omega

@[simp] theorem bin_length (n v : Nat) : (bin n v).length = n := by
  simp [bin]

theorem bin_succ (n v : Nat) : bin (n + 1) v = v.testBit n :: bin n v := by
  simp only [bin, List.range_succ_eq_map, List.map_cons, List.map_map, Nat.add_sub_cancel, Nat.sub_zero, List.cons.injEq,
    true_and]
  apply List.map_congr_left
  intro p _
  simp [Nat.sub_sub, Nat.add_comm]

/-- `bin` reads `n` bits only: bits from `n` up do not matter. -/
theorem bin_add_mul (n v c : Nat) : bin n (c * 2 ^ n + v) = bin n v := by
  simp only [bin]
  apply List.map_congr_left
  intro p hp
  have hp' := List.mem_range.1 hp
  have hk : n - 1 - p < n := by omega
  have h := Nat.testBit_mod_two_pow (c * 2 ^ n + v) n (n - 1 - p)
  have h' := Nat.testBit_mod_two_pow v n (n - 1 - p)
  rw [Nat.mul_comm, Nat.mul_add_mod] at h
  simpa [hk, Nat.mul_comm] using h.symm.trans h'

/-- `bin` is the inverse of `val` below `2^n`. -/
theorem val_bin (n v : Nat) : val (bin n v) = v % 2 ^ n := by
  induction n with
  | zero => simp [bin, Nat.mod_one]
  | succ n ih =>
    rw [bin_succ, val_cons, ih, bin_length, Nat.pow_succ, Nat.mod_mul, Nat.testBit_eq_decide_div_mod_eq]
    rcases Nat.mod_two_eq_zero_or_one (v / 2 ^ n) with h | h <;> simp [h]
    omega

/-- A string is the `bin` of its value. -/
theorem bin_val (b : Bits) : bin b.length (val b) = b := by
  induction b with
  | nil => rfl
  | cons x xs ih =>
    have h := val_lt xs
    rw [List.length_cons, bin_succ, val_cons, bin_add_mul, ih]
    congr 1
    cases x
    · simpa using Nat.testBit_lt_two_pow h
    · simp [Nat.testBit_two_pow_add_eq, Nat.testBit_lt_two_pow h]

/-- Two strings of one length with one value are equal. -/
theorem val_injective {a b : Bits} (hl : a.length = b.length) (hv : val a = val b) : a = b := by
  rw [← bin_val a, ← bin_val b, hl, hv]

/-- The length of a substring (R6). -/
theorem slice_length (a e : Nat) (b : Bits) : (slice a e b).length = min (e - a) (b.length - a) := by
  simp [slice]

/-- `popcount` by head. -/
theorem popcount_cons (x : Bool) (b : Bits) : popcount (x :: b) = popcount b + x.toNat := by
  cases x <;> simp [popcount]

@[simp] theorem inStringOrder_length (raw : List SampleRange) : (inStringOrder raw).length = raw.length := by
  simp [inStringOrder]

/-- The parity bit and the data bits of a frame written head first. -/
@[simp] theorem framePar_cons (par : Bool) (data : Bits) : framePar (par :: data) = par := rfl

theorem frameData_cons (par : Bool) (data : Bits) (h : data.length = 8) : frameData (par :: data) = data := by
  simp [frameData, slice, ← h]

end Sys2Proof
end

