-- ==== Sys2Proof/Laws/Decode.lean ====
section
/-! SUPPORT. Laws of the dispatch key and of its decoder: the row each kind of key meets. -/

namespace Sys2Proof

/-- The key of a notification meets NOTIFY's row. -/
theorem lookupKey_notify (sel : Sel) : lookupKey (dispatchKey sel .notify) = some .notify := by
  cases sel <;> decide

/-- The key of an IR event, by its `short` bit and opcode bits (R42). -/
theorem lookupKey_ir_fields (sel : Sel) (short : Bool) (x : BitVec 4) :
    lookupKey (Kind.ir.code ++ sel.code ++ BitVec.ofBool short ++ x)
      = some (if short then .irUnknown
          else if x = 0b0011#4 then .irIdcode
          else if x = 0b0111#4 then .irPdicom
          else if x = 0b1111#4 then .irBypass
          else .irUnknown) := by
  revert x
  cases sel <;> cases short <;> decide

/-- The operation a DR_TDI event is, by `sel` (R42). -/
def tdiOp : Sel → KOp
  | .idle => .drTdiIdle
  | .bypass => .drTdiBypass
  | .idcode => .drTdiIdcode
  | .pdicom => .drTdiPdicom
  | .unknown => .drTdiUnknown

/-- The operation a DR_TDO event is, by `sel` (R42). -/
def tdoOp : Sel → KOp
  | .idle => .drTdoIdle
  | .bypass => .drTdoBypass
  | .idcode => .drTdoIdcode
  | .pdicom => .drTdoPdicom
  | .unknown => .drTdoUnknown

theorem dispatchKey_drTdi (sel : Sel) (p : Shift) :
    dispatchKey sel (.drTdi p) = Kind.drTdi.code ++ sel.code ++ BitVec.ofBool false ++ 0#4 := rfl

theorem dispatchKey_drTdo (sel : Sel) (p : Shift) :
    dispatchKey sel (.drTdo p) = Kind.drTdo.code ++ sel.code ++ BitVec.ofBool false ++ 0#4 := rfl

/-- The key of a DR_TDI event meets the row of its `sel`. -/
theorem lookupKey_drTdi (sel : Sel) (p : Shift) : lookupKey (dispatchKey sel (.drTdi p)) = some (tdiOp sel) := by
  rw [dispatchKey_drTdi]
  cases sel <;> decide

/-- The key of a DR_TDO event meets the row of its `sel`. -/
theorem lookupKey_drTdo (sel : Sel) (p : Shift) : lookupKey (dispatchKey sel (.drTdo p)) = some (tdoOp sel) := by
  rw [dispatchKey_drTdo]
  cases sel <;> decide

/-- A well-formed DR_TDI event decodes to the operation of its `sel`. -/
theorem decode_drTdi (sel : Sel) (p : Shift) (h : p.paired = true) :
    decode (Event.packet sel (.drTdi p)) = .ok ((tdiOp sel).instr p) := by
  simp only [decode, Event.packet, decodeKey, lookupKey_drTdi, Event.shift]
  cases sel <;> simp [tdiOp, h, KOp.isIr]

/-- A well-formed DR_TDO event decodes to the operation of its `sel`. -/
theorem decode_drTdo (sel : Sel) (p : Shift) (h : p.paired = true) :
    decode (Event.packet sel (.drTdo p)) = .ok ((tdoOp sel).instr p) := by
  simp only [decode, Event.packet, decodeKey, lookupKey_drTdo, Event.shift]
  cases sel <;> simp [tdoOp, h, KOp.isIr]

end Sys2Proof
end

