-- ==== Sys2Proof/Laws/State.lean ====
section
/-! SUPPORT. The small lemmas of the state: one for each field of `State` under each update of Machine/Ops.lean. -/

namespace Sys2Proof.Machine

variable (s : State)

/-! ## `beginStep` -/

@[simp] theorem State.beginStep_sel : s.beginStep.sel = s.sel := rfl
@[simp] theorem State.beginStep_ranges : s.beginStep.ranges = s.ranges := rfl
@[simp] theorem State.beginStep_out : s.beginStep.out = [] := rfl
@[simp] theorem State.beginStep_pdi : s.beginStep.pdi = none := rfl
@[simp] theorem State.beginStep_sink : s.beginStep.sink = s.sink := rfl
@[simp] theorem State.beginStep_results : s.beginStep.results = s.results := rfl
@[simp] theorem State.beginStep_stream : s.beginStep.stream = s.stream := rfl

/-! ## `latch` -/

@[simp] theorem State.latch_sel (raw : List SampleRange) : (s.latch raw).sel = s.sel := rfl
@[simp] theorem State.latch_ranges (raw : List SampleRange) : (s.latch raw).ranges = raw.reverse := rfl
@[simp] theorem State.latch_out (raw : List SampleRange) : (s.latch raw).out = s.out := rfl
@[simp] theorem State.latch_pdi (raw : List SampleRange) : (s.latch raw).pdi = s.pdi := rfl
@[simp] theorem State.latch_sink (raw : List SampleRange) : (s.latch raw).sink = s.sink := rfl
@[simp] theorem State.latch_results (raw : List SampleRange) : (s.latch raw).results = s.results := rfl
@[simp] theorem State.latch_stream (raw : List SampleRange) : (s.latch raw).stream = s.stream := rfl

/-! ## `setSel` -/

@[simp] theorem State.setSel_sel (x : Sel) : (s.setSel x).sel = x := rfl
@[simp] theorem State.setSel_ranges (x : Sel) : (s.setSel x).ranges = s.ranges := rfl
@[simp] theorem State.setSel_out (x : Sel) : (s.setSel x).out = s.out := rfl
@[simp] theorem State.setSel_pdi (x : Sel) : (s.setSel x).pdi = s.pdi := rfl
@[simp] theorem State.setSel_sink (x : Sel) : (s.setSel x).sink = s.sink := rfl
@[simp] theorem State.setSel_results (x : Sel) : (s.setSel x).results = s.results := rfl
@[simp] theorem State.setSel_stream (x : Sel) : (s.setSel x).stream = s.stream := rfl

/-! ## `emit` -/

@[simp] theorem State.emit_sel (rs : List Record) : (s.emit rs).sel = s.sel := rfl
@[simp] theorem State.emit_ranges (rs : List Record) : (s.emit rs).ranges = s.ranges := rfl
@[simp] theorem State.emit_out (rs : List Record) : (s.emit rs).out = s.out ++ rs := rfl
@[simp] theorem State.emit_pdi (rs : List Record) : (s.emit rs).pdi = s.pdi := rfl
@[simp] theorem State.emit_sink (rs : List Record) : (s.emit rs).sink = s.sink ++ rs := rfl
@[simp] theorem State.emit_results (rs : List Record) : (s.emit rs).results = s.results := rfl
@[simp] theorem State.emit_stream (rs : List Record) : (s.emit rs).stream = s.stream := rfl

/-! ## `report` -/

@[simp] theorem State.report_sel (r : PdiResult) : (s.report r).sel = s.sel := rfl
@[simp] theorem State.report_ranges (r : PdiResult) : (s.report r).ranges = s.ranges := rfl
@[simp] theorem State.report_out (r : PdiResult) : (s.report r).out = s.out := rfl
@[simp] theorem State.report_pdi (r : PdiResult) : (s.report r).pdi = some r := rfl
@[simp] theorem State.report_sink (r : PdiResult) : (s.report r).sink = s.sink := rfl
@[simp] theorem State.report_results (r : PdiResult) : (s.report r).results = s.results ++ [r] := rfl
@[simp] theorem State.report_stream (r : PdiResult) : (s.report r).stream = s.stream := rfl

/-! ## `resetSession` -/

@[simp] theorem State.resetSession_sel : s.resetSession.sel = .idle := rfl
@[simp] theorem State.resetSession_ranges : s.resetSession.ranges = [] := rfl
@[simp] theorem State.resetSession_out : s.resetSession.out = [] := rfl
@[simp] theorem State.resetSession_pdi : s.resetSession.pdi = none := rfl
@[simp] theorem State.resetSession_sink : s.resetSession.sink = s.sink := rfl
@[simp] theorem State.resetSession_results : s.resetSession.results = s.results := rfl
@[simp] theorem State.resetSession_stream : s.resetSession.stream = s.stream := rfl

/-! ## `beginShift` -/

@[simp] theorem State.beginShift_sel (p : Shift) : (s.beginShift p).sel = s.sel := rfl
@[simp] theorem State.beginShift_ranges (p : Shift) : (s.beginShift p).ranges = p.rangesRaw.reverse := rfl
@[simp] theorem State.beginShift_out (p : Shift) : (s.beginShift p).out = [] := rfl
@[simp] theorem State.beginShift_pdi (p : Shift) : (s.beginShift p).pdi = none := rfl
@[simp] theorem State.beginShift_sink (p : Shift) : (s.beginShift p).sink = s.sink := rfl
@[simp] theorem State.beginShift_results (p : Shift) : (s.beginShift p).results = s.results := rfl
@[simp] theorem State.beginShift_stream (p : Shift) : (s.beginShift p).stream = s.stream := rfl

end Sys2Proof.Machine
end

