-- ==== Sys2Proof/Laws/Ops.lean ====
section
/-! SUPPORT. Laws of the shared operations: for each, once, everything it can do. -/

namespace Sys2Proof.Machine

@[simp] theorem andThen_next (s : State) (f : State → Outcome) : andThen (.next s) f = f s := rfl

/-- A sequence answers a next state exactly when both parts do. -/
theorem andThen_eq_next {o : Outcome} {f : State → Outcome} {u : State} :
    andThen o f = .next u ↔ ∃ t, o = .next t ∧ f t = .next u := by
  cases o <;> simp [andThen]

/-- Selecting a register: everything it changes (R62). -/
theorem selectRegister_eq (name : RegName) (p : Shift) (s : State) :
    selectRegister name p s = s.emitted name.toSel p.rangesRaw.reverse [⟨p.ss, p.es, .item, .sel name⟩] := rfl

/-- Dropping a shift: everything it changes (R67). -/
theorem dropShift_eq (p : Shift) (s : State) :
    dropShift p s = s.emitted s.sel p.rangesRaw.reverse [] := by
  simp [dropShift, State.beginShift, State.beginStep, State.latch, State.emitted, inStringOrder]

/-- A frame of another length than 9: nothing, and `(0, false)` (R90). -/
theorem validateAndAnnotate_malformed {frame : Bits} (h : frame.length ≠ 9) (dir : Direction)
    (ranges : List SampleRange) : validateAndAnnotate frame dir ranges = ([], (0#8, false)) := by
  simp [validateAndAnnotate, Config.frameWidth, h]

/-- A 9-bit frame with valid parity: two records (R93). -/
theorem validateAndAnnotate_valid {frame : Bits} (h : frame.length = 9) (hok : frameOk frame = true) (dir : Direction)
    (ranges : List SampleRange) :
    validateAndAnnotate frame dir ranges
      = ([dataRecord dir ranges (frameByte frame), parityRecord dir ranges true], (frameByte frame, true)) := by
  simp [validateAndAnnotate, Config.frameWidth, h, hok]

/-- A 9-bit frame with invalid parity: three records (R93, R94). -/
theorem validateAndAnnotate_invalid {frame : Bits} (h : frame.length = 9) (hok : frameOk frame = false)
    (dir : Direction) (ranges : List SampleRange) :
    validateAndAnnotate frame dir ranges
      = ([dataRecord dir ranges (frameByte frame), parityRecord dir ranges false,
          specialRecord dir ranges (specialOf (frameByte frame))], (frameByte frame, false)) := by
  simp [validateAndAnnotate, Config.frameWidth, h, hok]

/-- The frame wrapper after the records `rs` of the same step: everything it changes (R96 to R98). -/
theorem handleFrame_beginShift (dir : Direction) (p : Shift) (rs : List Record) (s : State) :
    handleFrame dir p.bits ((s.beginShift p).emit rs)
      = s.framed p.rangesRaw.reverse (rs ++ (validateAndAnnotate p.bits dir p.rangesRaw.reverse).1)
          (pdiOf dir (validateAndAnnotate p.bits dir p.rangesRaw.reverse).2) := by
  simp [handleFrame, State.framed, pdiOf, State.emit, State.report, State.beginShift, State.beginStep, State.latch,
    inStringOrder]

/-- The outputs of one bare frame: everything it changes. -/
theorem frameStep_eq (dir : Direction) (rs : List Record) (d : BitVec 8) (ok : Bool) (s : State) :
    frameStep dir rs d ok s = s.framed s.ranges rs ⟨dir, d, ok⟩ := by
  simp [frameStep, State.framed, State.emit, State.report, State.beginStep]

/-- An IDCODE payload of another width (R82). -/
theorem idcodeRecords_wrong {p : Shift} (h : p.bits.length ≠ 32) (ranges : List SampleRange) :
    idcodeRecords p ranges = [⟨p.ss, p.es, .warning, .malformedShift p.bits.length⟩] := by
  simp [idcodeRecords, Config.idcodeWidth, h]

/-- An IDCODE payload of 32 bits (R83). -/
theorem idcodeRecords_right {p : Shift} (h : p.bits.length = 32) (ranges : List SampleRange) :
    idcodeRecords p ranges = idcodeWordRecords p ranges := by
  simp [idcodeRecords, Config.idcodeWidth, h]

/-- The mux of a DR_TDI event always answers a next state. -/
theorem tdiEvent_next (p : Shift) (s : State) : ∃ t, tdiEvent p s = .next t := by
  unfold tdiEvent
  split <;> exact ⟨_, rfl⟩

/-- The mux of a DR_TDO event always answers a next state. -/
theorem tdoEvent_next (p : Shift) (s : State) : ∃ t, tdoEvent p s = .next t := by
  unfold tdoEvent
  split <;> exact ⟨_, rfl⟩

/-- No meaning stops: every operation answers a next state in every state (R78). -/
theorem exec_next (i : Instr) (s : State) : ∃ t, exec i s = .next t := by
  cases i
  case shiftDr tdi tdo =>
    obtain ⟨t, ht⟩ := tdiEvent_next tdi s
    obtain ⟨u, hu⟩ := tdoEvent_next { tdi with bits := tdo } t
    exact ⟨u, by simp [exec, execShiftDr, ht, hu]⟩
  all_goals exact ⟨_, rfl⟩

end Sys2Proof.Machine
end

