-- ==== Sys2Proof/Laws/PerInstr.lean ====
section
/-! SUPPORT. The per-instruction family `EncodedRow`: the encoder writes a word that matches the operation's own row of
spec/opcode_table.json under the row's mask. -/

namespace Sys2Proof.Laws

/-- A word matches a row: under the mask it is the row's match. -/
abbrev matchesRow (pattern mask code : BitVec 10) : Prop :=
  code &&& mask = pattern

/-- The row (or rows) of the opcode table an operation's word must match. -/
def rowHolds (code : BitVec 10) : Instr → Prop
  | .notify => matchesRow 0x000#10 0x300#10 code
  | .irIdcode _ => matchesRow 0x103#10 0x31F#10 code
  | .irPdicom _ => matchesRow 0x107#10 0x31F#10 code
  | .irBypass _ => matchesRow 0x10F#10 0x31F#10 code
  | .irUnknown p =>
    if p.bits.length < 4 then matchesRow 0x110#10 0x310#10 code
    else ∃ k ∈ [0x100#10, 0x101#10, 0x102#10, 0x104#10, 0x105#10, 0x106#10, 0x108#10, 0x109#10, 0x10A#10, 0x10B#10,
      0x10C#10, 0x10D#10, 0x10E#10], matchesRow k 0x31F#10 code
  | .drTdiIdle _ => matchesRow 0x200#10 0x3E0#10 code
  | .drTdoIdle _ => matchesRow 0x300#10 0x3E0#10 code
  | .drTdiBypass _ => matchesRow 0x220#10 0x3E0#10 code
  | .drTdoBypass _ => matchesRow 0x320#10 0x3E0#10 code
  | .drTdiIdcode _ => matchesRow 0x240#10 0x3E0#10 code
  | .drTdoIdcode _ => matchesRow 0x340#10 0x3E0#10 code
  | .drTdiPdicom _ => matchesRow 0x260#10 0x3E0#10 code
  | .drTdoPdicom _ => matchesRow 0x360#10 0x3E0#10 code
  | .drTdiUnknown _ => matchesRow 0x280#10 0x3E0#10 code
  | .drTdoUnknown _ => matchesRow 0x380#10 0x3E0#10 code
  | .pdiBreak _ _ => matchesRow 0x1BB#10 0x1FF#10 code
  | .pdiDelay _ _ => matchesRow 0x1DB#10 0x1FF#10 code
  | .pdiEmpty _ _ => matchesRow 0x1EB#10 0x1FF#10 code
  | .pdiMalformed _ _ | .pdiData _ _ | .pdiInvalid _ _ => matchesRow 0x000#10 0x000#10 code
  | .select _ _ _ _ => matchesRow 0x100#10 0x310#10 code
  | .shiftDr _ _ => matchesRow 0x200#10 0x200#10 code
  | .reset => matchesRow 0x000#10 0x000#10 code

namespace EncodedRow

/-- The encoder writes a word of the operation's row. -/
def Statement (i : Instr) : Prop :=
  i.wf = true → rowHolds (encode i).code i

theorem notify : Statement .notify := fun _ => by
  show matchesRow _ _ 0x000#10; decide
theorem irIdcode (p : Shift) : Statement (.irIdcode p) := fun _ => by
  show matchesRow _ _ 0x103#10; decide
theorem irPdicom (p : Shift) : Statement (.irPdicom p) := fun _ => by
  show matchesRow _ _ 0x107#10; decide
theorem irBypass (p : Shift) : Statement (.irBypass p) := fun _ => by
  show matchesRow _ _ 0x10F#10; decide

/-- A key with the opcode bits of a nibble that is none of the three matches one of the thirteen rows. -/
theorem unknown_nibble (x : BitVec 4) (h1 : x ≠ 0b0011#4) (h2 : x ≠ 0b0111#4) (h3 : x ≠ 0b1111#4) :
    ∃ k ∈ [0x100#10, 0x101#10, 0x102#10, 0x104#10, 0x105#10, 0x106#10, 0x108#10, 0x109#10, 0x10A#10, 0x10B#10,
      0x10C#10, 0x10D#10, 0x10E#10], (0b010000#6 ++ x) &&& 0x31F#10 = k := by
  revert x; decide

/-- Four bits with one of the three values are that opcode. -/
theorem nibble_eq {b o : Bits} (hb : b.length = 4) (ho : o.length = 4)
    (h : BitVec.ofNat 4 (val b) = BitVec.ofNat 4 (val o)) : b = o := by
  have h' := congrArg BitVec.toNat h
  have l1 := val_lt b
  have l2 := val_lt o
  rw [hb] at l1
  rw [ho] at l2
  simp only [BitVec.toNat_ofNat, Nat.mod_eq_of_lt l1, Nat.mod_eq_of_lt l2] at h'
  exact val_injective (hb.trans ho.symm) h'

theorem irUnknown (p : Shift) : Statement (.irUnknown p) := fun hw => by
  simp only [Instr.wf, Bool.and_eq_true, beq_iff_eq] at hw
  by_cases hl : p.bits.length < 4
  · simp only [rowHolds, encode, irKey, keyPacket, if_pos hl]
    decide
  · simp only [rowHolds, encode, irKey, keyPacket, if_neg hl]
    have hlen : (slice 0 4 p.bits).length = 4 := by rw [slice_length]; omega
    have hop : irOpcode p.bits = slice 0 4 p.bits := rfl
    have hname := hw.2
    simp only [Machine.irName, hop, hlen, if_true, Machine.irMap] at hname
    have key : ∀ o : Bits, o.length = 4 → slice 0 4 p.bits ≠ o →
        BitVec.ofNat 4 (val (slice 0 4 p.bits)) ≠ BitVec.ofNat 4 (val o) :=
      fun o ho hne h => hne (nibble_eq hlen ho h)
    have h1 : slice 0 4 p.bits ≠ [false, false, true, true] := fun h => by simp [h] at hname
    have h2 : slice 0 4 p.bits ≠ [false, true, true, true] := fun h => by simp [h] at hname
    have h3 : slice 0 4 p.bits ≠ [true, true, true, true] := fun h => by simp [h] at hname
    exact unknown_nibble _ (key _ rfl h1) (key _ rfl h2) (key _ rfl h3)

theorem drTdiIdle (p : Shift) : Statement (.drTdiIdle p) := fun _ => by
  show matchesRow _ _ 0x200#10; decide
theorem drTdoIdle (p : Shift) : Statement (.drTdoIdle p) := fun _ => by
  show matchesRow _ _ 0x300#10; decide
theorem drTdiBypass (p : Shift) : Statement (.drTdiBypass p) := fun _ => by
  show matchesRow _ _ 0x220#10; decide
theorem drTdoBypass (p : Shift) : Statement (.drTdoBypass p) := fun _ => by
  show matchesRow _ _ 0x320#10; decide
theorem drTdiIdcode (p : Shift) : Statement (.drTdiIdcode p) := fun _ => by
  show matchesRow _ _ 0x240#10; decide
theorem drTdoIdcode (p : Shift) : Statement (.drTdoIdcode p) := fun _ => by
  show matchesRow _ _ 0x340#10; decide
theorem drTdiPdicom (p : Shift) : Statement (.drTdiPdicom p) := fun _ => by
  show matchesRow _ _ 0x260#10; decide
theorem drTdoPdicom (p : Shift) : Statement (.drTdoPdicom p) := fun _ => by
  show matchesRow _ _ 0x360#10; decide
theorem drTdiUnknown (p : Shift) : Statement (.drTdiUnknown p) := fun _ => by
  show matchesRow _ _ 0x280#10; decide
theorem drTdoUnknown (p : Shift) : Statement (.drTdoUnknown p) := fun _ => by
  show matchesRow _ _ 0x380#10; decide
theorem pdiMalformed (dir : Direction) (p : Shift) : Statement (.pdiMalformed dir p) := fun _ => by
  simp [rowHolds, matchesRow]
theorem pdiBreak (dir : Direction) (p : Shift) : Statement (.pdiBreak dir p) := fun _ => by
  show matchesRow _ _ 0x1BB#10; decide
theorem pdiDelay (dir : Direction) (p : Shift) : Statement (.pdiDelay dir p) := fun _ => by
  show matchesRow _ _ 0x1DB#10; decide
theorem pdiEmpty (dir : Direction) (p : Shift) : Statement (.pdiEmpty dir p) := fun _ => by
  show matchesRow _ _ 0x1EB#10; decide
theorem pdiData (dir : Direction) (p : Shift) : Statement (.pdiData dir p) := fun _ => by
  simp [rowHolds, matchesRow]
theorem pdiInvalid (dir : Direction) (p : Shift) : Statement (.pdiInvalid dir p) := fun _ => by
  simp [rowHolds, matchesRow]
theorem select (name : Selectable) (rangesRaw : List SampleRange) (ss es : Sample) :
    Statement (.select name rangesRaw ss es) := fun _ => by
  show matchesRow _ _ (0b010000#6 ++ BitVec.ofNat 4 (val name.opcode))
  cases name <;> decide
theorem shiftDr (tdi : Shift) (tdo : Bits) : Statement (.shiftDr tdi tdo) := fun _ => by
  show matchesRow _ _ 0x200#10; decide
theorem reset : Statement .reset := fun _ => by
  simp [rowHolds, matchesRow]

end EncodedRow
end Sys2Proof.Laws
end

