-- ==== Sys2Proof/Laws/Step.lean ====
section
/-! SUPPORT. Laws of fetching and stepping: what a step can do, said once. -/

namespace Sys2Proof.Machine

/-- Fetching answers an operation exactly when there is an entry and it decodes. -/
theorem fetch_eq_ok {s s1 : State} {i : Instr} :
    fetch s = .ok (i, s1) ↔
      ∃ x rest, s.stream = x :: rest ∧ decode (x.packet s.sel) = .ok i ∧ s1 = { s with stream := rest } := by
  unfold fetch
  split
  · rename_i h; simp [h]
  · rename_i x rest h
    split
    · rename_i e hd; simp [h, hd]
    · rename_i j hd
      simp only [Except.ok.injEq, Prod.mk.injEq, h, List.cons.injEq]
      constructor
      · rintro ⟨rfl, rfl⟩; exact ⟨x, rest, ⟨rfl, rfl⟩, hd, rfl⟩
      · rintro ⟨x', rest', ⟨rfl, rfl⟩, hd', rfl⟩
        rw [hd] at hd'; exact ⟨Except.ok.inj hd', rfl⟩

/-- Everything a step that answers a next state can do: it consumes the next entry and runs the operation the entry
decodes to. -/
theorem step_cases {s t : State} (h : step s = .next t) :
    ∃ x rest i, s.stream = x :: rest ∧ decode (x.packet s.sel) = .ok i ∧ exec i { s with stream := rest } = .next t := by
  unfold step at h
  split at h
  · cases h
  · rename_i i s1 hf
    obtain ⟨x, rest, hs, hd, rfl⟩ := fetch_eq_ok.1 hf
    exact ⟨x, rest, i, hs, hd, h⟩

/-- A step whose next entry is rejected is refused. -/
theorem step_refused_of_decode {s : State} {x : Item} {rest : List Item} {e : DecodeError} (hs : s.stream = x :: rest)
    (hd : decode (x.packet s.sel) = .error e) : step s = .refused (.illFormed e) := by
  simp [step, fetch, hs, hd]

/-- A step with nothing to consume is refused. -/
theorem step_refused_of_empty {s : State} (hs : s.stream = []) : step s = .refused .endOfStream := by
  simp [step, fetch, hs]

@[simp] theorem run_zero (s : State) : run 0 s = .next s := rfl

/-- A run of one step more. -/
theorem run_succ_of_step {n : Nat} {s t : State} (h : step s = .next t) : run (n + 1) s = run n t := by
  simp [run, h]

/-- A run of one step more answers a next state exactly when its first step and its rest do. -/
theorem run_succ_eq_next {n : Nat} {s u : State} :
    run (n + 1) s = .next u ↔ ∃ t, step s = .next t ∧ run n t = .next u :=
  andThen_eq_next

/-! ## What the statements about PDICOM sequences read of an event -/

@[simp] theorem frameRecords_drTdi (p : Shift) :
    frameRecords (.drTdi p) = (validateAndAnnotate p.bits .toDevice p.rangesRaw.reverse).1 := rfl

@[simp] theorem frameRecords_drTdo (p : Shift) :
    frameRecords (.drTdo p)
      = ⟨p.ss, p.es, .command, .pdicom⟩ :: (validateAndAnnotate p.bits .toHost p.rangesRaw.reverse).1 := rfl

@[simp] theorem frameResult_drTdi (p : Shift) :
    frameResult (.drTdi p) = pdiOf .toDevice (validateAndAnnotate p.bits .toDevice p.rangesRaw.reverse).2 := rfl

@[simp] theorem frameResult_drTdo (p : Shift) :
    frameResult (.drTdo p) = pdiOf .toHost (validateAndAnnotate p.bits .toHost p.rangesRaw.reverse).2 := rfl

/-! ## What no operation touches -/

/-- A DR_TDI event leaves what is still to come as it is. -/
theorem tdiEvent_stream {p : Shift} {s t : State} (h : tdiEvent p s = .next t) : t.stream = s.stream := by
  unfold tdiEvent at h
  split at h <;> (cases h; simp [handleFrame, dropShift])

/-- A DR_TDO event leaves what is still to come as it is. -/
theorem tdoEvent_stream {p : Shift} {s t : State} (h : tdoEvent p s = .next t) : t.stream = s.stream := by
  unfold tdoEvent at h
  split at h <;> (cases h; simp [handleFrame, dropShift])

/-- No operation consumes or adds entries: the stream is fetching's alone. -/
theorem exec_stream {i : Instr} {s t : State} (h : exec i s = .next t) : t.stream = s.stream := by
  cases i with
  | shiftDr tdi tdo =>
    obtain ⟨u, h1, h2⟩ := andThen_eq_next.1 h
    rw [tdoEvent_stream h2, tdiEvent_stream h1]
  | _ => cases h; rfl

/-- The host's run of a machine, one step at a time. -/
theorem core_run_succ (M : Host.Core) (n : Nat) (s : M.State) (P : Host.Outcome M.State M.Fault M.Refusal → Prop)
    (hn : ∀ t, M.step s = .next t → P (M.run n t)) (hf : ∀ r, M.step s = .fault r → P (.fault r))
    (hr : ∀ r, M.step s = .refused r → P (.refused r)) : P (M.run (n + 1) s) := by
  unfold Host.Core.run
  cases h : M.step s with
  | next t => exact hn t h
  | fault r => exact hf r h
  | refused r => exact hr r h

/-- The host's run of the machine is this run. -/
theorem core_run_eq (n : Nat) (s : State) : Host.Core.run Sys2Proof.core n s = run n s := by
  induction n generalizing s with
  | zero => rfl
  | succ n ih =>
    refine core_run_succ Sys2Proof.core n s (fun o => o = run (n + 1) s) (fun t h => ?_) (fun r h => ?_) (fun r h => ?_)
    · exact (ih t).trans (run_succ_of_step h).symm
    · have h' : step s = .fault r := h
      simp only [run, h']
      rfl
    · have h' : step s = .refused r := h
      simp only [run, h']
      rfl

end Sys2Proof.Machine
end

