-- ==== Sys2Proof/Laws/Text.lean ====
section
/-! SUPPORT. Laws of the text form's reader: how a line falls into words, and what a word of bits reads as. -/

namespace Sys2Proof.Machine

/-- No character of a line without a space is the separator. -/
theorem not_separator {w : List Char} (h : ' ' ∉ w) : ∀ x ∈ w, (x == ' ') = false := by
  intro x hx
  exact beq_false_of_ne (fun e => h (e ▸ hx))

/-- A line without a space is one word. -/
theorem splitOn_word {w : List Char} (h : ' ' ∉ w) : w.splitOn ' ' = [w] :=
  List.splitOnP_eq_singleton (not_separator h)

/-- Up to its first space a line is its first word. -/
theorem splitOn_word_space {w : List Char} (h : ' ' ∉ w) (v : List Char) :
    (w ++ ' ' :: v).splitOn ' ' = w :: v.splitOn ' ' :=
  List.splitOnP_append_cons_of_forall_mem (not_separator h) ' ' rfl v

/-- A line that is one word. -/
theorem wordsOf_word {w : List Char} (h : ' ' ∉ w) (hw : w ≠ []) : wordsOf w = [w] := by
  simp [wordsOf, splitOn_word h, hw]

/-- A line of a word, a space and the rest. -/
theorem wordsOf_word_space {w : List Char} (h : ' ' ∉ w) (hw : w ≠ []) (v : List Char) :
    wordsOf (w ++ ' ' :: v) = w :: wordsOf v := by
  simp [wordsOf, splitOn_word_space h, hw]

/-- A word whose characters, underscores left out, are those of `b`: it has no space, is a word of bits, and reads as
`b` (R54). -/
theorem bitsWord_cases {b : Bits} {w : List Char} (h : w.filter (· != '_') = b.map bitChar) :
    ' ' ∉ w ∧ isBitsWord w = true ∧ readBits w = b := by
  have chars : ∀ c ∈ w, c = '_' ∨ c = '0' ∨ c = '1' := by
    intro c hc
    by_cases hu : c = '_'
    · exact .inl hu
    · have hm : c ∈ b.map bitChar := by rw [← h]; simp [hc, hu]
      obtain ⟨x, _, rfl⟩ := List.mem_map.1 hm
      cases x <;> simp [bitChar]
  refine ⟨fun hs => by simpa using chars _ hs, ?_, ?_⟩
  · rw [isBitsWord, List.all_eq_true]
    intro c hc
    rcases chars c hc with rfl | rfl | rfl <;> rfl
  · rw [readBits, h, List.map_map]
    exact List.map_id'' (fun x => by cases x <;> rfl) b

/-- A tail that is left out gives the default sample numbers (R54). -/
@[simp] theorem readTail_nil (b : Bits) : readTail b [] = some (defaultShift b) := rfl

end Sys2Proof.Machine
end

