-- ==== Sys2Proof/Tests/Slice0.lean ====
section
/-! SUPPORT. Own tests: the rejections of the checks and of the decoder, every constructor's decoding from a word written
out from the spec's encoding, one or two steps per operation from the vectors of 95_test_vectors.md, labels, and a
witness for every statement that has hypotheses. -/

namespace Sys2Proof.Tests

open Sys2Proof.Machine

/-- A bit string from its characters. -/
def bs (w : String) : Bits := readBits w.toList

/-- A payload with the default sample numbers of 95_test_vectors.md section 0. -/
def sh (w : String) : Shift := defaultShift (bs w)

/-- A state after reset but for `sel`. -/
def at' (x : Sel) : State := { State.reset with sel := x }

/-- A state after reset but for `sel` and the stream. -/
def withStream (x : Sel) (items : List Item) : State := { State.reset with sel := x, stream := items }

/-- The state after a step. -/
def after (o : Outcome) : Option State :=
  match o with
  | .next t => some t
  | _ => none

/-- What a step gives: next `sel`, records, frame result. -/
def view (o : Outcome) : Option (Sel × List Record × Option PdiResult) :=
  (after o).map fun t => (t.sel, t.out, t.pdi)

/-- One event met in a state that holds nothing else. -/
def ev (x : Sel) (e : Event) : Outcome := step (withStream x [.event e])

/-! ## Well-formedness: an ill-formed term for each check -/

/-- A payload with one range too few. -/
def unpairedShift : Shift := ⟨[true, false], [(1, 2)], 0, 0⟩

theorem test_wf_event_unpaired : (Event.ir unpairedShift).wf = false := by decide
theorem test_wf_item_event_unpaired : (Item.event (.drTdo unpairedShift)).wf = false := by decide
theorem test_wf_item_select_ranges : (Item.select .idcode [(1, 2)] 0 0).wf = false := by decide
theorem test_wf_item_shiftDr_lengths : (Item.shiftDr (sh "101") (bs "10")).wf = false := by decide
theorem test_wf_item_shiftDr_unpaired : (Item.shiftDr unpairedShift (bs "10")).wf = false := by decide
theorem test_wf_item_frame_unpaired : (Item.frame .toHost unpairedShift).wf = false := by decide
theorem test_wf_irIdcode_opcode : (Instr.irIdcode (sh "1100")).wf = false := by decide
theorem test_wf_irPdicom_opcode : (Instr.irPdicom (sh "0011")).wf = false := by decide
theorem test_wf_irBypass_short : (Instr.irBypass (sh "111")).wf = false := by decide
theorem test_wf_irUnknown_known : (Instr.irUnknown (sh "0111")).wf = false := by decide
theorem test_wf_dr_unpaired : (Instr.drTdiIdle unpairedShift).wf = false := by decide
theorem test_wf_pdiMalformed_length : (Instr.pdiMalformed .toHost (sh "000000000")).wf = false := by decide
theorem test_wf_pdiBreak_parity : (Instr.pdiBreak .toHost (sh "010111011")).wf = false := by decide
theorem test_wf_pdiDelay_byte : (Instr.pdiDelay .toHost (sh "110111011")).wf = false := by decide
theorem test_wf_pdiEmpty_byte : (Instr.pdiEmpty .toHost (sh "111011011")).wf = false := by decide
theorem test_wf_pdiData_parity : (Instr.pdiData .toHost (sh "100000000")).wf = false := by decide
theorem test_wf_pdiInvalid_special : (Instr.pdiInvalid .toHost (sh "110111011")).wf = false := by decide
theorem test_wf_select_ranges : (Instr.select .bypass [] 0 0).wf = false := by decide
theorem test_wf_shiftDr_lengths : (Instr.shiftDr (sh "1") []).wf = false := by decide

/-! ## The decoder's rejections, each by its name -/

theorem test_reject_unassignedKey : decode ⟨.k, 0b1010100000#10, .toDevice, Shift.none, []⟩ = .error .unassignedKey := by
  rfl
theorem test_reject_unpaired : decode ⟨.k, 0x200#10, .toDevice, unpairedShift, []⟩ = .error .unpairedRanges := by rfl
theorem test_reject_keyMismatch : decode ⟨.k, 0x103#10, .toDevice, sh "0111", []⟩ = .error .keyMismatch := by rfl
theorem test_reject_strayPayload : decode ⟨.k, 0x000#10, .toDevice, sh "1", []⟩ = .error .strayPayload := by rfl
theorem test_reject_frameMismatch :
    decode ⟨.f, 0x1BB#10, .toDevice, sh "000000000", []⟩ = .error .frameMismatch := by rfl
theorem test_reject_notSelectable :
    decode ⟨.pseudo, 0x105#10, .toDevice, sh "0101", []⟩ = .error .notSelectable := by rfl
theorem test_reject_unequalShifts :
    decode ⟨.pseudo, 0x200#10, .toDevice, sh "10", [true]⟩ = .error .unequalShifts := by rfl
theorem test_reject_word_sel101 : decodeTableWord 16 0b1010100000 = none := by decide
theorem test_reject_word_eleven_bits : decodeTableWord 16 0b10000000000 = none := by decide
theorem test_step_refuses_illFormed :
    step (withStream .idle [.event (.ir unpairedShift)]) = .refused (.illFormed .unpairedRanges) := by rfl
theorem test_step_refuses_empty_stream : step State.reset = .refused .endOfStream := by rfl

/-! ## Decoding, every constructor: the words of 30_encoding.md R42 and R46 written out as kind, sel, short, ir4 -/

/-- The payload behind a bare table word. -/
def z (w : String) : Shift := zeroShift (bs w)

theorem test_decode_notify : decodeTableWord 16 0b00_000_0_0000 = some .notify := by decide
theorem test_decode_irIdcode : decodeTableWord 16 0b01_000_0_0011 = some (.irIdcode (z "0011")) := by decide
theorem test_decode_irPdicom : decodeTableWord 16 0b01_000_0_0111 = some (.irPdicom (z "0111")) := by decide
theorem test_decode_irBypass : decodeTableWord 16 0b01_010_0_1111 = some (.irBypass (z "1111")) := by decide
theorem test_decode_irUnknown : decodeTableWord 16 0b01_000_0_1101 = some (.irUnknown (z "1101")) := by decide
theorem test_decode_irUnknown_short : decodeTableWord 16 0b01_000_1_0000 = some (.irUnknown Shift.none) := by decide
theorem test_decode_drTdiIdle : decodeTableWord 16 0b10_000_0_0000 = some (.drTdiIdle Shift.none) := by decide
theorem test_decode_drTdoIdle : decodeTableWord 16 0b11_000_0_0000 = some (.drTdoIdle Shift.none) := by decide
theorem test_decode_drTdiBypass : decodeTableWord 16 0b10_001_0_0000 = some (.drTdiBypass Shift.none) := by decide
theorem test_decode_drTdoBypass : decodeTableWord 16 0b11_001_0_0000 = some (.drTdoBypass Shift.none) := by decide
theorem test_decode_drTdiIdcode : decodeTableWord 16 0b10_010_0_0000 = some (.drTdiIdcode Shift.none) := by decide
theorem test_decode_drTdoIdcode : decodeTableWord 16 0b11_010_0_0000 = some (.drTdoIdcode Shift.none) := by decide
theorem test_decode_drTdiPdicom : decodeTableWord 16 0b10_011_0_0000 = some (.drTdiPdicom Shift.none) := by decide
theorem test_decode_drTdoPdicom : decodeTableWord 16 0b11_011_0_0000 = some (.drTdoPdicom Shift.none) := by decide
theorem test_decode_drTdiUnknown : decodeTableWord 16 0b10_100_0_0000 = some (.drTdiUnknown Shift.none) := by decide
theorem test_decode_drTdoUnknown : decodeTableWord 16 0b11_100_0_0000 = some (.drTdoUnknown Shift.none) := by decide
theorem test_decode_pdiBreak : decodeTableWord 16 0b1_10111011 = some (.pdiBreak .toDevice (z "110111011")) := by decide
theorem test_decode_pdiDelay : decodeTableWord 16 0b1_11011011 = some (.pdiDelay .toDevice (z "111011011")) := by decide
theorem test_decode_pdiEmpty : decodeTableWord 16 0b1_11101011 = some (.pdiEmpty .toDevice (z "111101011")) := by decide
theorem test_decode_pdiData :
    decode ⟨.f, 0b0_0_10100101#10, .toHost, z "010100101", []⟩ = .ok (.pdiData .toHost (z "010100101")) := by rfl
theorem test_decode_pdiInvalid :
    decode ⟨.f, 0b0_1_00000000#10, .toHost, z "100000000", []⟩ = .ok (.pdiInvalid .toHost (z "100000000")) := by rfl
theorem test_decode_pdiMalformed :
    decode ⟨.f, 0#10, .toDevice, z "10000000", []⟩ = .ok (.pdiMalformed .toDevice (z "10000000")) := by rfl
theorem test_decode_select :
    decode ⟨.pseudo, 0b01_000_0_0111#10, .toDevice, z "0111", []⟩
      = .ok (.select .pdicom [(0, 0), (0, 0), (0, 0), (0, 0)] 0 0) := by rfl
theorem test_decode_shiftDr :
    decode ⟨.pseudo, 0b10_000_0_0000#10, .toDevice, z "1", bs "0"⟩ = .ok (.shiftDr (z "1") (bs "0")) := by rfl
theorem test_decode_reset : decode ⟨.none, 0#10, .toDevice, Shift.none, []⟩ = .ok .reset := by rfl

/-- The key's fields of V19, `IR 00111` met in UNKNOWN: K = 0x183. -/
theorem test_key_v19 : dispatchKey .unknown (.ir (sh "00111")) = 0x183#10 := by decide
/-- V19, the empty IR payload met in PDICOM: K = 0x170. -/
theorem test_key_v19_empty : dispatchKey .pdicom (.ir (sh "")) = 0x170#10 := by decide

/-! ## Steps, from 95_test_vectors.md -/

/-- V22: NOTIFY in PDICOM, with a latch that holds something. -/
theorem test_notify_v22 :
    (after (step { withStream .pdicom [.event .notify] with ranges := [(1, 2)] })).map (fun t => (t.sel, t.ranges, t.out))
      = some (.pdicom, [(1, 2)], []) := by decide
/-- V18: IR 0011. -/
theorem test_irIdcode_v18 : view (ev .idle (.ir (sh "0011"))) = some (.idcode, [⟨10, 49, .item, .sel .idcode⟩], none) := by
  decide
/-- V19: positions 4 and later are ignored. -/
theorem test_irIdcode_long : view (ev .idcode (.ir (sh "0011_1111")))
    = some (.idcode, [⟨10, 89, .item, .sel .idcode⟩], none) := by decide
/-- V8, first event. -/
theorem test_irPdicom_v8 : view (ev .idle (.ir (sh "0111"))) = some (.pdicom, [⟨10, 49, .item, .sel .pdicom⟩], none) := by
  decide
/-- R65's example: IR 1111 ends PDI mode. -/
theorem test_irBypass_r65 : view (ev .pdicom (.ir (sh "1111"))) = some (.bypass, [⟨10, 49, .item, .sel .bypass⟩], none) := by
  decide
/-- V19: the opcode at positions 4 to 7 is not read. -/
theorem test_irUnknown_v19 : view (ev .bypass (.ir (sh "0101_0011")))
    = some (.unknown, [⟨10, 89, .item, .sel .unknown⟩], none) := by decide
/-- V19: three ones are not BYPASS. -/
theorem test_irUnknown_short : view (ev .unknown (.ir (sh "111"))) = some (.unknown, [⟨10, 39, .item, .sel .unknown⟩], none) := by
  decide
/-- V21: dropped in IDLE, the latch is rewritten all the same. -/
theorem test_drTdiIdle_v21 : (after (ev .idle (.drTdi (sh "1")))).map (fun t => (t.sel, t.ranges, t.out, t.pdi))
    = some (.idle, [(10, 19)], [], none) := by decide
theorem test_drTdoIdle_v21 : (after (ev .idle (.drTdo (sh "011111111")))).map (fun t => (t.sel, t.ranges.length, t.out, t.pdi))
    = some (.idle, 9, [], none) := by decide
/-- V20. -/
theorem test_drTdiBypass_v20 : view (ev .bypass (.drTdi (sh "1"))) = some (.idle, [⟨10, 19, .item, .bits [true]⟩], none) := by
  decide
/-- V20, width 0. -/
theorem test_drTdiBypass_empty : view (ev .bypass (.drTdi (sh ""))) = some (.idle, [⟨0, 0, .item, .bits []⟩], none) := by
  decide
/-- V20, width 3. -/
theorem test_drTdoBypass_v20 : view (ev .bypass (.drTdo (sh "101")))
    = some (.idle, [⟨10, 39, .item, .bits [true, false, true]⟩], none) := by decide
/-- V21. -/
theorem test_drTdiIdcode_v21 : view (ev .idcode (.drTdi (sh "00000000"))) = some (.idcode, [], none) := by decide
/-- V1. -/
theorem test_drTdoIdcode_v1 : view (ev .idcode (.drTdo (sh "0_00000011111_1001011001000010_0000")))
    = some (.idle,
        [⟨320, 329, .field, .reserved⟩, ⟨210, 319, .field, .manuf 0x01F#11⟩, ⟨50, 209, .field, .part 0x9642#16⟩,
         ⟨10, 49, .field, .version 0#4⟩, ⟨10, 329, .item, .idcode 0x01F96420#32⟩,
         ⟨10, 329, .command, .idcodeCmd 0x01F96420#32⟩], none) := by decide
/-- V7: 33 bits. -/
theorem test_drTdoIdcode_v7 : view (ev .idcode (.drTdo (sh "000000011111100101100100001000001")))
    = some (.idle, [⟨10, 339, .warning, .malformedShift 33⟩], none) := by decide
/-- V8. -/
theorem test_drTdiPdicom_v8 : view (ev .pdicom (.drTdi (sh "100000000")))
    = some (.pdicom, [⟨10, 89, .dataIn, .byte 0#8⟩, ⟨90, 99, .parityInErr, .parity false⟩,
        ⟨10, 89, .dataProg, .special .invalid⟩], some ⟨.toDevice, 0#8, false⟩) := by decide
/-- V14: 10 bits are not cut to 9. -/
theorem test_drTdiPdicom_v14 : view (ev .pdicom (.drTdi (sh "1000000000")))
    = some (.pdicom, [], some ⟨.toDevice, 0#8, false⟩) := by decide
/-- V23 (b): ranges in falling time order. -/
theorem test_drTdoPdicom_v23b : view (ev .pdicom (.drTdo ⟨bs "011111111",
      [(900, 909), (800, 809), (700, 709), (600, 609), (500, 509), (400, 409), (300, 309), (200, 209), (100, 109)], 100, 909⟩))
    = some (.pdicom, [⟨100, 909, .command, .pdicom⟩, ⟨200, 909, .dataOut, .byte 0xFF#8⟩,
        ⟨100, 109, .parityOutOk, .parity true⟩], some ⟨.toHost, 0xFF#8, true⟩) := by decide
/-- V15: 8 bits leave the command record only. -/
theorem test_drTdoPdicom_v15 : view (ev .pdicom (.drTdo (sh "10000000")))
    = some (.pdicom, [⟨10, 89, .command, .pdicom⟩], some ⟨.toHost, 0#8, false⟩) := by decide
/-- R75's example. -/
theorem test_drTdiUnknown_r75 : view (ev .unknown (.drTdi (sh "1010"))) = some (.unknown, [], none) := by decide
/-- R76's example. -/
theorem test_drTdoUnknown_r76 : view (ev .unknown (.drTdo (sh "1010"))) = some (.unknown, [], none) := by decide
/-- R90's example: 8 bits. -/
theorem test_pdiMalformed_r90 : view (step (withStream .idle [.frame .toDevice (sh "10000000")]))
    = some (.idle, [], some ⟨.toDevice, 0#8, false⟩) := by decide
/-- R94's example: 110111011, device to host. -/
theorem test_pdiBreak_r94 : view (step (withStream .idle [.frame .toHost (sh "110111011")]))
    = some (.idle, [⟨10, 89, .dataOut, .byte 0xBB#8⟩, ⟨90, 99, .parityOutErr, .parity false⟩,
        ⟨10, 89, .dataDev, .special .brk⟩], some ⟨.toHost, 0xBB#8, false⟩) := by decide
/-- V12. -/
theorem test_pdiDelay_v12 : view (step (withStream .idle [.frame .toDevice (sh "111011011")]))
    = some (.idle, [⟨10, 89, .dataIn, .byte 0xDB#8⟩, ⟨90, 99, .parityInErr, .parity false⟩,
        ⟨10, 89, .dataProg, .special .delay⟩], some ⟨.toDevice, 0xDB#8, false⟩) := by decide
/-- V12. -/
theorem test_pdiEmpty_v12 : view (step (withStream .idle [.frame .toDevice (sh "111101011")]))
    = some (.idle, [⟨10, 89, .dataIn, .byte 0xEB#8⟩, ⟨90, 99, .parityInErr, .parity false⟩,
        ⟨10, 89, .dataProg, .special .empty⟩], some ⟨.toDevice, 0xEB#8, false⟩) := by decide
/-- V13: 0xBB with valid parity is data. -/
theorem test_pdiData_v13 : view (step (withStream .idle [.frame .toDevice (sh "010111011")]))
    = some (.idle, [⟨10, 89, .dataIn, .byte 0xBB#8⟩, ⟨90, 99, .parityInOk, .parity true⟩],
        some ⟨.toDevice, 0xBB#8, true⟩) := by decide
/-- V16: 110100101. -/
theorem test_pdiInvalid_v16 : view (step (withStream .idle [.frame .toDevice (sh "110100101")]))
    = some (.idle, [⟨10, 89, .dataIn, .byte 0xA5#8⟩, ⟨90, 99, .parityInErr, .parity false⟩,
        ⟨10, 89, .dataProg, .special .invalid⟩], some ⟨.toDevice, 0xA5#8, false⟩) := by decide
/-- R55: SELECT BYPASS is IR 1111. -/
theorem test_select_r55 : view (step (withStream .pdicom [.select .bypass (defaultRanges 4) 10 49]))
    = view (ev .pdicom (.ir (sh "1111"))) := by decide
/-- V20 as SHIFT_DR 1 0: the TDI record, and the TDO event finds IDLE. -/
theorem test_shiftDr_v20 :
    (after (step (withStream .bypass [.shiftDr (sh "1") (bs "0")]))).map (fun t => (t.sel, t.out, t.sink))
      = some (.idle, [], [⟨10, 19, .item, .bits [true]⟩]) := by decide
/-- P1's SHIFT_DR: TDI is ignored in IDCODE, TDO is decoded. -/
theorem test_shiftDr_p1 : (after (step (withStream .idcode [.shiftDr (sh "1") (bs "0")]))).map (fun t => (t.sel, t.out))
    = some (.idle, [⟨10, 19, .warning, .malformedShift 1⟩]) := by decide
/-- V24. -/
theorem test_reset_v24 : (after (step { withStream .pdicom [.reset] with ranges := [(1, 2)] })).map
    (fun t => (t.sel, t.ranges, t.out, t.pdi)) = some (.idle, [], [], none) := by decide

/-! ## Placing a table word -/

theorem test_place_drTdoIdcode : view (step (State.reset.withFetchWord 16 0x340))
    = some (.idle, [⟨0, 0, .warning, .malformedShift 0⟩], none) := by decide
theorem test_place_pdiBreak : (after (step (State.reset.withFetchWord 16 0x1BB))).map (fun t => t.out.map Record.payload)
    = some [.byte 0xBB#8, .parity false, .special .brk] := by decide

/-! ## Spans, labels, text form -/

/-- V23 (c): the manufacturer span over narrow ranges. -/
theorem test_span_v23c : span ((List.range 32).map fun p => (1093 - 3 * p, 1094 - 3 * p)) 1 11 = (1060, 1091) := by decide
/-- V1. -/
theorem test_label_idcode : label .item (.idcode 0x01F96420#32) = "IDCODE: 0x1f96420" := by decide
/-- V2: an unknown manufacturer. -/
theorem test_label_manuf : label .field (.manuf 0x0F8#11) = "Manufacturer: INVALID" := by decide
/-- V1: the known part. -/
theorem test_label_part : label .field (.part 0x9642#16) = "Part: ATXMega64A3U" := by rfl
/-- V3. -/
theorem test_label_version : label .field (.version 10#4) = "Version: 10" := by decide
/-- S8, S9. -/
theorem test_label_byte : label .dataIn (.byte 0#8) = "0x00" ∧ label .dataOut (.byte 0xFF#8) = "0xff" := by decide
/-- V20. -/
theorem test_label_bits : label .item (.bits (bs "101")) = "BYPASS: 101" := by decide
/-- V7. -/
theorem test_label_warning : label .warning (.malformedShift 33) = "Malformed register shift: 33 bits" := by decide
/-- V8. -/
theorem test_label_parity : label .parityInErr (.parity false) = "Parity error" := by decide
/-- V23 (a), its first three ranges. -/
theorem test_readLine_v23 : readLine "DR_TDI 110 @ 95..190 ranges 100-104 110-114 120-124".toList
    = some (.event (.drTdi ⟨[true, true, false], [(100, 104), (110, 114), (120, 124)], 95, 190⟩)) := by decide
/-- R54: underscores mean nothing, and the default sample numbers apply. -/
theorem test_readLine_default : readLine "IR 0011_1".toList = some (.event (.ir (sh "00111"))) := by decide
/-- R99 (c): of the bytes 0x00 to 0x0F, eight take the parity bit 1. -/
theorem test_parity_counts : (List.range 16).countP (fun f => frameOk (true :: bin 8 f)) = 8 := by decide
/-- V17: flipping position 8 of 010100101. -/
theorem test_parity_v17 : frameOk (bs "010100101") = true ∧ frameOk (bs "010100100") = false := by decide

/-! ## Witnesses: concrete states and operands that meet the hypotheses of the statements -/

theorem witness_DecodeEncodeRoundTrip : (Instr.irIdcode (sh "00110")).wf = true := by decide
theorem witness_EveryWellFormedEntryDecodes : (Item.frame .toHost (sh "110111011")).wf = true := by decide
theorem witness_EveryKeyMeetsExactlyOneRow : (Event.drTdo (sh "1")).wf = true := by decide
theorem witness_StepRunsTheDecodedOperation :
    (withStream .pdicom [.event (.drTdi (sh "1"))]).stream = .event (.drTdi (sh "1")) :: []
      ∧ decode (Item.packet Sel.pdicom (.event (.drTdi (sh "1")))) = .ok (.drTdiPdicom (sh "1"))
      ∧ (Instr.drTdiPdicom (sh "1")).wf = true := ⟨rfl, rfl, by decide⟩
theorem witness_PlacedWordIsRunNext : decodeTableWord 16 0x220 = some (.drTdiBypass Shift.none) := by decide
theorem witness_IllFormedEntryIsRefused :
    (withStream .idle [.event (.ir unpairedShift)]).stream = .event (.ir unpairedShift) :: []
      ∧ (Item.event (.ir unpairedShift)).wf = false := ⟨rfl, by decide⟩
theorem witness_KnownIrOpcodes :
    (sh "0011").paired = true ∧ slice 0 4 (sh "0011").bits = [false, false, true, true]
      ∧ (sh "01111").paired = true ∧ slice 0 4 (sh "01111").bits = [false, true, true, true]
      ∧ (sh "1111").paired = true ∧ slice 0 4 (sh "1111").bits = [true, true, true, true] := by decide
theorem witness_OtherIrPayloads : (sh "0101").paired = true ∧ slice 0 4 (sh "0101").bits = [false, true, false, true]
    ∧ (sh "111").paired = true ∧ slice 0 4 (sh "111").bits = [true, true, true] := by decide
theorem witness_DroppedShifts : (sh "1").paired = true ∧ (at' .idle).sel = .idle ∧ (at' .idcode).sel = .idcode
    ∧ (at' .unknown).sel = .unknown := by decide
theorem witness_BypassShift : (sh "").paired = true ∧ (sh "101").paired = true ∧ (at' .bypass).sel = .bypass := by decide
/-- The 32-bit string of V1 is built from its fields. -/
theorem witness_IdcodeShift : (at' .idcode).sel = .idcode ∧ (sh "00000001111110010110010000100000").paired = true
    ∧ (sh "00000001111110010110010000100000").bits = assembleIdcode ⟨false, 0x01F#11, 0x9642#16, 0#4⟩ := by decide
theorem witness_WrongWidthIdcode : (at' .idcode).sel = .idcode ∧ (sh "").paired = true ∧ (sh "").bits.length ≠ 32
    ∧ (sh "000000011111100101100100001000001").paired = true
    ∧ (sh "000000011111100101100100001000001").bits.length ≠ 32 := by decide
/-- Frames of both outcomes, for PDICOM input and output and for the frame operations. -/
theorem witness_PdicomFrames : (at' .pdicom).sel = .pdicom ∧ (sh "011111111").paired = true
    ∧ (sh "011111111").bits = false :: bin 8 (0xFF#8).toNat ∧ (popcount (bin 8 (0xFF#8).toNat) + false.toNat) % 2 = 0
    ∧ (sh "100000000").paired = true ∧ (sh "100000000").bits = true :: bin 8 (0#8).toNat ∧ (popcount (bin 8 (0#8).toNat) + true.toNat) % 2 = 1 := by decide
theorem witness_MalformedFrames : (at' .pdicom).sel = .pdicom ∧ (sh "10000000").paired = true ∧ (sh "10000000").bits.length ≠ 9
    ∧ (sh "1000000000").paired = true ∧ (sh "1000000000").bits.length ≠ 9 := by decide
theorem witness_SpecialFrames : (sh "110111011").paired = true ∧ (sh "110111011").bits = bin 9 0x1BB
    ∧ (sh "111011011").paired = true ∧ (sh "111011011").bits = bin 9 0x1DB
    ∧ (sh "111101011").paired = true ∧ (sh "111101011").bits = bin 9 0x1EB := by decide
theorem witness_InvalidFrame : (sh "110100101").paired = true ∧ (sh "110100101").bits = true :: bin 8 (0xA5#8).toNat
    ∧ (popcount (bin 8 (0xA5#8).toNat) + true.toNat) % 2 = 1 ∧ 0xA5#8 ≠ 0xBB#8 ∧ 0xA5#8 ≠ 0xDB#8 ∧ 0xA5#8 ≠ 0xEB#8 := by
  decide
theorem witness_Select : (defaultRanges 4).length = 4 := by decide
theorem witness_ShiftDr : (sh "1").paired = true ∧ (bs "0").length = (sh "1").bits.length := by decide
/-- One event in a stream, the step it takes, and its well-formedness: for the statements about one step. -/
theorem witness_one_step : (withStream .bypass [.event (.drTdo (sh "1"))]).stream = .event (.drTdo (sh "1")) :: []
    ∧ (Event.drTdo (sh "1")).wf = true ∧ Event.drTdo (sh "1") ≠ .notify
    ∧ (after (step (withStream .bypass [.event (.drTdo (sh "1"))]))).map State.sel = some .idle
    ∧ (withStream .bypass []).sel ≠ .idle := ⟨rfl, by decide, by decide, by decide, by decide⟩
/-- A step of each ignored kind: a notification, a DR event in IDLE, a DR_TDI event in IDCODE. -/
theorem witness_IgnoredSteps : (after (ev .pdicom .notify)).isSome = true ∧ .ignored ∈ conditions .pdicom .notify
    ∧ (after (ev .idle (.drTdo (sh "1")))).isSome = true ∧ .ignored ∈ conditions .idle (.drTdo (sh "1"))
    ∧ (after (ev .idcode (.drTdi (sh "1")))).isSome = true ∧ .ignored ∈ conditions .idcode (.drTdi (sh "1")) := by decide
theorem witness_EveryWellFormedStream :
    (withStream .idle [.select .bypass (defaultRanges 4) 10 49, .shiftDr (sh "1") (bs "0"), .reset,
      .frame .toHost (sh "110111011"), .event .notify]).StreamOk := by unfold State.StreamOk; decide
/-- Whatever the three open rows are, some part has no name. -/
theorem witness_UnknownPart : ∃ p, partLookup p = none := by
  by_contra h
  have all : ∀ p, p ∈ [knownPartKey, partKey1, partKey2, partKey3] := by
    intro p
    by_contra hp
    refine h ⟨p, ?_⟩
    simp only [List.mem_cons, List.not_mem_nil, or_false, not_or] at hp
    obtain ⟨h0, h1, h2, h3⟩ := hp
    simp only [partLookup, partTable, List.lookup, beq_false_of_ne h0, beq_false_of_ne h1, beq_false_of_ne h2,
      beq_false_of_ne h3]
  have five : [0#16, 1#16, 2#16, 3#16, 4#16].length ≤ [knownPartKey, partKey1, partKey2, partKey3].length :=
    (List.Nodup.subperm (by decide) fun p _ => all p).length_le
  simp at five
/-- A stream of events of all four kinds. -/
theorem witness_RunIsTheConcatenation :
    (withStream .idle [.event (.ir (sh "0111")), .event .notify, .event (.drTdi (sh "100000000")), .event (.drTdo (sh "1"))]).stream
      = [Event.ir (sh "0111"), .notify, .drTdi (sh "100000000"), .drTdo (sh "1")].map Item.event
    ∧ ∀ e ∈ [Event.ir (sh "0111"), .notify, .drTdi (sh "100000000"), .drTdo (sh "1")], e.wf = true := ⟨rfl, by decide⟩
/-- PDICOM selected, frames of both directions, of 9 bits and of another length. -/
theorem witness_PdicomPersists :
    (withStream .pdicom [.event (.drTdo (sh "100000000")), .event (.drTdi (sh "1"))]).sel = .pdicom
    ∧ (withStream .pdicom [.event (.drTdo (sh "100000000")), .event (.drTdi (sh "1"))]).stream
      = [Event.drTdo (sh "100000000"), .drTdi (sh "1")].map Item.event
    ∧ ∀ e ∈ [Event.drTdo (sh "100000000"), .drTdi (sh "1")], e.wf = true ∧ e.isDr = true := ⟨rfl, rfl, by decide⟩
/-- The part whose name the spec gives. -/
theorem witness_KnownPart : partLookup 0x9642#16 = some "ATXMega64A3U" := by rfl
/-- A step for each condition that a step's records show but for the two names. -/
theorem witness_ConditionSteps :
    (after (ev .idle (.ir (sh "0101")))).isSome = true ∧ .irUnknown ∈ conditions .idle (.ir (sh "0101"))
    ∧ (after (ev .pdicom (.drTdo (sh "1")))).isSome = true ∧ .pdiMalformed ∈ conditions .pdicom (.drTdo (sh "1"))
    ∧ (after (ev .pdicom (.drTdi (sh "100000000")))).isSome = true
    ∧ .parity ∈ conditions .pdicom (.drTdi (sh "100000000"))
    ∧ (after (ev .idcode (.drTdo (sh "1")))).isSome = true ∧ .malformedShift ∈ conditions .idcode (.drTdo (sh "1")) := by
  decide
theorem witness_EveryStepKeepsOutputsOk :
    (withStream .pdicom [.event (.drTdi (sh "100000000"))]).OutputsOk
      ∧ (after (step (withStream .pdicom [.event (.drTdi (sh "100000000"))]))).isSome = true :=
  ⟨⟨by simp [withStream, State.reset], by simp [withStream, State.reset], by decide,
    by simp [withStream, State.reset]⟩, by decide⟩
/-- A step with a record, and with the warning category. -/
theorem witness_DeclaredOnlyCategories :
    (after (step (withStream .idcode [.event (.drTdo (sh "1"))]))).map State.out
      = some [⟨10, 19, .warning, .malformedShift 1⟩]
    ∧ (after (step (withStream .idcode [.shiftDr (sh "1") (bs "0")]))).map State.sink
      = some [⟨10, 19, .warning, .malformedShift 1⟩] := by decide
/-- Two states that differ in what came before, and a run of one step. -/
theorem witness_HistoryIsNeverObserved :
    State.SameSelection (withStream .pdicom [.event .notify]) { withStream .pdicom [.event .notify] with ranges := [(1, 2)] }
      ∧ (after (run 1 (withStream .pdicom [.event .notify]))).isSome = true := ⟨⟨rfl, rfl⟩, by decide⟩
theorem witness_IrBitsBehindTheOpcode : 4 ≤ (sh "001100").bits.length ∧ 4 ≤ (sh "001111").bits.length
    ∧ slice 0 4 (sh "001100").bits = slice 0 4 (sh "001111").bits ∧ (sh "001100").es = (sh "001111").es
    ∧ (after (ev .idle (.ir (sh "001100")))).isSome = true ∧ (after (ev .idle (.ir (sh "001111")))).isSome = true := by
  decide
theorem witness_ReservedBitIsIgnored : (bs "0000001111110010110010000100000").length = 31 := by decide
/-- A stream of well-formed DR events, for the statements about sequences from BYPASS and PDICOM. -/
theorem witness_dr_sequence : (withStream .bypass [.event (.drTdi (sh "1")), .event (.drTdo (sh "0"))]).stream
      = [Event.drTdi (sh "1"), Event.drTdo (sh "0")].map Item.event
    ∧ ∀ x ∈ [Event.drTdi (sh "1"), Event.drTdo (sh "0")], x.wf = true ∧ x.isDr = true := ⟨rfl, by decide⟩
theorem witness_IdcodeWaits : (withStream .idcode [.event (.drTdi (sh "1")), .event (.drTdo (sh "0")), .event (.drTdo (sh "1"))]).stream
      = ([sh "1"].map Event.drTdi ++ .drTdo (sh "0") :: [Event.drTdo (sh "1")]).map Item.event
    ∧ ∀ x ∈ [sh "1"].map Event.drTdi ++ .drTdo (sh "0") :: [Event.drTdo (sh "1")], x.wf = true ∧ x.isDr = true :=
  ⟨rfl, by decide⟩
theorem witness_UnknownSelection : (withStream .idle [.event (.ir (sh "0101")), .event (.drTdi (sh "1"))]).stream
      = (Event.ir (sh "0101") :: [Event.drTdi (sh "1")]).map Item.event
    ∧ (sh "0101").paired = true ∧ irName (sh "0101").bits = .unknown
    ∧ ∀ x ∈ [Event.drTdi (sh "1")], x.wf = true ∧ x.isDr = true := ⟨rfl, by decide, by decide, by decide⟩
theorem witness_IdcodeFields : (bs "00000001111110010110010000100000").length = 32 := by decide
theorem witness_SpanWithin : 1 ≤ 8 ∧ 8 < (sh "011111111").rangesRaw.length := by decide
theorem witness_SpanSinglePosition : 0 ≤ 0 ∧ 0 < (sh "1").rangesRaw.length := by decide
theorem witness_ParityFrame : (bs "10100101").length = 8 ∧ (bs "010100101").length = 9 ∧ 8 < (bs "010100101").length := by
  decide
theorem witness_SpecialRecord : (bs "110111011").length = 9 ∧ frameOk (bs "110111011") = false := by decide
theorem witness_Conditions : Condition.ignored ∈ conditions .idcode (.drTdi (sh "1"))
    ∧ Condition.malformedShift ∈ conditions .idcode (.drTdo (sh "1"))
    ∧ Condition.parity ∈ conditions .pdicom (.drTdo (sh "100000000"))
    ∧ Condition.manufUnknown ∈ conditions .idcode (.drTdo (sh "00001111100010010110010000100000")) := by
  refine ⟨by decide, by decide, by decide, ?_⟩
  simp only [conditions, idcodeConditions]
  rw [if_neg (by decide), if_neg (by decide)]
  exact List.mem_append_left _ (List.mem_singleton.2 rfl)
/-- Bit words with and without underscores, and the empty one. -/
theorem witness_DefaultSampleNumbers : "1_0".toList.filter (· != '_') = [true, false].map bitChar
    ∧ "011".toList.filter (· != '_') = [false, true, true].map bitChar ∧ "1_0".toList ≠ [] ∧ "011".toList ≠ []
    ∧ ([] : List Char).filter (· != '_') = ([] : Bits).map bitChar := by decide
theorem witness_WrittenLine : (Item.event (.ir (sh "1"))).wf = true
    ∧ writeLine (.event (.ir (sh "1"))) = some "IR 1 @ 10..19 ranges 10-19".toList := by decide

end Sys2Proof.Tests
end

section
/-! PROOFS. The value of a bit string (00_scope.md section 5): as the positional sum (R6), and bit by bit (R7). -/

namespace Sys2Proof

/-- A bit of `bin n v` read at the position R7 gives the value bit `k`. -/
theorem bin_getElem? (n v k : Nat) (h : k < n) : (bin n v)[n - 1 - k]? = some (v.testBit k) := by
  have hpos : n - 1 - k < n := by omega
  have hbit : n - 1 - (n - 1 - k) = k := by omega
  simp [bin, hpos, hbit]

/-- Value bit `k` inside the string is the string's position `n-1-k` (R7). -/
theorem val_testBit_of_lt (b : Bits) (k : Nat) (h : k < b.length) :
    (val b).testBit k = b.getD (b.length - 1 - k) false := by
  have hread := bin_getElem? b.length (val b) k h
  rw [bin_val] at hread
  simp [List.getD_eq_getElem?_getD, hread]

/-- There are no value bits past the string's length. -/
theorem val_testBit_of_le (b : Bits) (k : Nat) (h : b.length ≤ k) : (val b).testBit k = false :=
  Nat.testBit_lt_two_pow ((val_lt b).trans_le (Nat.pow_le_pow_right two_pos h))

/-- The head of a string takes the weight `2^(n-1)`; the tail keeps its weights. -/
theorem sum_weights_cons (x : Bool) (xs : Bits) :
    ∑ p : Fin (x :: xs).length, ((x :: xs).get p).toNat * 2 ^ ((x :: xs).length - 1 - p)
      = x.toNat * 2 ^ xs.length + ∑ p : Fin xs.length, (xs.get p).toNat * 2 ^ (xs.length - 1 - p) := by
  have hweight (p : Nat) : xs.length - 1 - p = xs.length - (p + 1) := by omega
  simp [Fin.sum_univ_succ, hweight]

end Sys2Proof

/-- Settles O44, by induction on the string: `val` and the sum both take the head with weight `2^(n-1)`. -/
theorem valIsThePositionalSum : Obligations.ValIsThePositionalSum := by
  unfold Obligations.ValIsThePositionalSum
  intro b
  induction b with
  | nil => simp
  | cons x xs ih => rw [Sys2Proof.val_cons, Sys2Proof.sum_weights_cons, ih]

/-- Settles O45: inside the string `b` is the `bin` of its value; past its length the value has no bits. -/
theorem valueBitIsStringPosition : Obligations.ValueBitIsStringPosition := by
  unfold Obligations.ValueBitIsStringPosition
  intro b k
  split
  case isTrue h => exact Sys2Proof.val_testBit_of_lt b k h
  case isFalse h => exact Sys2Proof.val_testBit_of_le b k (Nat.le_of_not_lt h)
end

section
/-! PROOFS. What is never observed (R11, R99 (e), R149): the latch and the outputs of earlier events. The notion is
`HistoryBlind`, closed under sequencing; every operation has it, so a step has it, so a run has it. -/

namespace Sys2Proof.Machine

/-- The same was emitted from `s` to `t` as from `s'` to `t'`, and `t` and `t'` are alike in all that is observed. -/
def AlikeAfter (s s' t t' : State) : Prop :=
  t.SameSelection t' ∧ ∃ rs results, t.sink = s.sink ++ rs ∧ t'.sink = s'.sink ++ rs
    ∧ t.results = s.results ++ results ∧ t'.results = s'.results ++ results

/-- What a computation does is fixed by `sel` and the stream: it takes alike states to alike states, emitting the same. -/
def HistoryBlind (f : State → Outcome) : Prop :=
  ∀ s s' t, s.SameSelection s' → f s = .next t → ∃ t', f s' = .next t' ∧ AlikeAfter s s' t t'

theorem AlikeAfter.refl {s s' : State} (h : s.SameSelection s') : AlikeAfter s s' s s' :=
  ⟨h, [], [], by simp⟩

theorem AlikeAfter.trans {s s' t t' u u' : State} (h1 : AlikeAfter s s' t t') (h2 : AlikeAfter t t' u u') :
    AlikeAfter s s' u u' := by
  obtain ⟨-, rs, results, hsink, hsink', hres, hres'⟩ := h1
  obtain ⟨hsame, rs2, results2, hsink2, hsink2', hres2, hres2'⟩ := h2
  exact ⟨hsame, rs ++ rs2, results ++ results2, by simp [*]⟩

/-! ## How blind computations are built -/

theorem HistoryBlind.next : HistoryBlind .next := by
  rintro s s' t hss ⟨⟩
  exact ⟨s', rfl, .refl hss⟩

/-- Two blind computations in sequence. -/
theorem HistoryBlind.andThen {f g : State → Outcome} (hf : HistoryBlind f) (hg : HistoryBlind g) :
    HistoryBlind fun s => andThen (f s) g := by
  intro s s' u hss h
  obtain ⟨t, hft, hgu⟩ := andThen_eq_next.1 h
  obtain ⟨t', hft', htt⟩ := hf s s' t hss hft
  obtain ⟨u', hgu', huu⟩ := hg t t' u htt.1 hgu
  exact ⟨u', by simp [hft', hgu'], htt.trans huu⟩

/-- Looking at `sel` to choose among blind computations. -/
theorem HistoryBlind.ofSel {f : State → Outcome} {F : Sel → State → Outcome} (hF : ∀ x, HistoryBlind (F x))
    (hf : ∀ s, f s = F s.sel s) : HistoryBlind f := by
  intro s s' t hss h
  rw [hf] at h ⊢
  rw [← hss.1]
  exact hF s.sel s s' t hss h

/-- Emitting fixed records, the new `sel` fixed by the old one; the new latch may be anything. -/
theorem HistoryBlind.ofEmitted {f : State → Outcome} (g : Sel → Sel) (ranges : State → List SampleRange)
    (rs : List Record) (hf : ∀ s, f s = .next (s.emitted (g s.sel) (ranges s) rs)) : HistoryBlind f := by
  intro s s' t hss h
  obtain rfl : s.emitted (g s.sel) (ranges s) rs = t := by simpa [hf] using h
  exact ⟨_, hf s', ⟨congrArg g hss.1, hss.2⟩, rs, [], by simp [State.emitted]⟩

/-- Emitting fixed records and a fixed frame result; the new latch may be anything. -/
theorem HistoryBlind.ofFramed {f : State → Outcome} (ranges : State → List SampleRange) (rs : List Record)
    (r : PdiResult) (hf : ∀ s, f s = .next (s.framed (ranges s) rs r)) : HistoryBlind f := by
  intro s s' t hss h
  obtain rfl : s.framed (ranges s) rs r = t := by simpa [hf] using h
  exact ⟨_, hf s', hss, rs, [r], by simp [State.framed]⟩

/-! ## The shared operations are blind -/

@[simp] theorem State.emit_nil (s : State) : s.emit [] = s := by
  simp [State.emit]

theorem historyBlind_execNotify : HistoryBlind execNotify :=
  .ofEmitted id State.ranges [] fun s => by simp [execNotify, State.beginStep, State.emitted]

theorem historyBlind_execReset : HistoryBlind execReset :=
  .ofEmitted (fun _ => .idle) (fun _ => []) [] fun s => by simp [execReset, State.resetSession, State.emitted]

theorem historyBlind_selectRegister (name : RegName) (p : Shift) :
    HistoryBlind fun s => .next (selectRegister name p s) :=
  .ofEmitted (fun _ => name.toSel) (fun _ => p.rangesRaw.reverse) _ fun s => by rw [selectRegister_eq]

theorem historyBlind_dropShift (p : Shift) : HistoryBlind fun s => .next (dropShift p s) :=
  .ofEmitted id (fun _ => p.rangesRaw.reverse) [] fun s => by rw [dropShift_eq, id]

/-- What ends a BYPASS or IDCODE selection: records, then IDLE (R69, R70, R72). -/
theorem historyBlind_emitThenIdle (p : Shift) (rs : List Record) :
    HistoryBlind fun s => .next (((s.beginShift p).emit rs).setSel .idle) :=
  .ofEmitted (fun _ => .idle) (fun _ => p.rangesRaw.reverse) rs fun _ => rfl

/-- The extractor reads the latch, but only after the event's own ranges were latched. -/
theorem historyBlind_handleFrame (dir : Direction) (p : Shift) (rs : List Record) :
    HistoryBlind fun s => .next (handleFrame dir p.bits ((s.beginShift p).emit rs)) :=
  .ofFramed (fun _ => p.rangesRaw.reverse) _ _ fun s => by rw [handleFrame_beginShift]

theorem historyBlind_frameStep (dir : Direction) (rs : List Record) (d : BitVec 8) (ok : Bool) :
    HistoryBlind fun s => .next (frameStep dir rs d ok s) :=
  .ofFramed State.ranges rs ⟨dir, d, ok⟩ fun s => by rw [frameStep_eq]

/-! ## Data-register events -/

/-- The mux of a DR_TDI event runs the operation its dispatch key selects. -/
theorem tdiEvent_eq_exec (p : Shift) (s : State) : tdiEvent p s = exec ((tdiOp s.sel).instr p) s := by
  unfold tdiEvent
  cases s.sel <;> rfl

/-- The mux of a DR_TDO event runs the operation its dispatch key selects. -/
theorem tdoEvent_eq_exec (p : Shift) (s : State) : tdoEvent p s = exec ((tdoOp s.sel).instr p) s := by
  unfold tdoEvent
  cases s.sel <;> rfl

theorem historyBlind_exec_tdiOp (x : Sel) (p : Shift) : HistoryBlind (exec ((tdiOp x).instr p)) := by
  cases x with
  | idle | idcode | unknown => exact historyBlind_dropShift p
  | bypass => exact historyBlind_emitThenIdle p (bypassRecords p)
  | pdicom =>
    have h := historyBlind_handleFrame .toDevice p []
    simp only [State.emit_nil] at h
    exact h

theorem historyBlind_exec_tdoOp (x : Sel) (p : Shift) : HistoryBlind (exec ((tdoOp x).instr p)) := by
  cases x with
  | idle | unknown => exact historyBlind_dropShift p
  | bypass => exact historyBlind_emitThenIdle p (bypassRecords p)
  | idcode => exact historyBlind_emitThenIdle p (idcodeRecords p p.rangesRaw.reverse)
  | pdicom => exact historyBlind_handleFrame .toHost p [⟨p.ss, p.es, .command, .pdicom⟩]

theorem historyBlind_tdiEvent (p : Shift) : HistoryBlind (tdiEvent p) :=
  .ofSel (fun x => historyBlind_exec_tdiOp x p) (tdiEvent_eq_exec p)

theorem historyBlind_tdoEvent (p : Shift) : HistoryBlind (tdoEvent p) :=
  .ofSel (fun x => historyBlind_exec_tdoOp x p) (tdoEvent_eq_exec p)

/-! ## Operations, steps, runs -/

theorem historyBlind_exec (i : Instr) : HistoryBlind (exec i) := by
  cases i with
  | notify => exact historyBlind_execNotify
  | reset => exact historyBlind_execReset
  | irIdcode p | irPdicom p | irBypass p | irUnknown p => exact historyBlind_selectRegister _ p
  | select name rangesRaw ss es => exact historyBlind_selectRegister _ ⟨name.opcode, rangesRaw, ss, es⟩
  | drTdiIdle p => exact historyBlind_exec_tdiOp .idle p
  | drTdiBypass p => exact historyBlind_exec_tdiOp .bypass p
  | drTdiIdcode p => exact historyBlind_exec_tdiOp .idcode p
  | drTdiPdicom p => exact historyBlind_exec_tdiOp .pdicom p
  | drTdiUnknown p => exact historyBlind_exec_tdiOp .unknown p
  | drTdoIdle p => exact historyBlind_exec_tdoOp .idle p
  | drTdoBypass p => exact historyBlind_exec_tdoOp .bypass p
  | drTdoIdcode p => exact historyBlind_exec_tdoOp .idcode p
  | drTdoPdicom p => exact historyBlind_exec_tdoOp .pdicom p
  | drTdoUnknown p => exact historyBlind_exec_tdoOp .unknown p
  | pdiMalformed dir p | pdiBreak dir p | pdiDelay dir p | pdiEmpty dir p | pdiData dir p | pdiInvalid dir p =>
    exact historyBlind_frameStep dir _ _ _
  | shiftDr tdi tdo => exact (historyBlind_tdiEvent tdi).andThen (historyBlind_tdoEvent _)

/-- A step whose next entry decodes runs the operation, the entry consumed: the converse of `step_cases`. -/
theorem step_eq_exec {s : State} {x : Item} {rest : List Item} {i : Instr} (hs : s.stream = x :: rest)
    (hd : decode (x.packet s.sel) = .ok i) : step s = exec i { s with stream := rest } := by
  simp [step, fetch, hs, hd]

/-- Fetching reads `sel` and the stream only, and consumes the same entry in alike states. -/
theorem historyBlind_step : HistoryBlind step := by
  intro s s' t hss h
  obtain ⟨hsel, hstream⟩ := hss
  obtain ⟨x, rest, i, hs, hd, he⟩ := step_cases h
  have hstep' : step s' = exec i { s' with stream := rest } :=
    step_eq_exec (hstream ▸ hs) (hsel ▸ hd)
  rw [hstep']
  exact historyBlind_exec i { s with stream := rest } { s' with stream := rest } t ⟨hsel, rfl⟩ he

theorem historyBlind_run (n : Nat) : HistoryBlind (run n) := by
  induction n with
  | zero => exact .next
  | succ n ih => exact historyBlind_step.andThen ih

end Sys2Proof.Machine

/-- Settles O37: a run of any length is blind to history, by induction on its length. -/
theorem historyIsNeverObserved : Obligations.HistoryIsNeverObserved := by
  unfold Obligations.HistoryIsNeverObserved
  exact Sys2Proof.Machine.historyBlind_run
end

section
/-! PROOFS. How `sel` moves (R10): an event's step moves it as R77's table says, and what the table leaves alone. -/

namespace Sys2Proof

/-- A key packet that decodes is the operation of the row its key meets. -/
theorem decodeKey_eq_ok {pk : Packet} {op : KOp} {i : Instr} (hop : lookupKey pk.code = some op)
    (h : decodeKey pk = .ok i) : i = op.instr pk.shift := by
  simp only [decodeKey, hop] at h
  split_ifs at h with hn
  · subst hn
    exact (Except.ok.inj h).symm
  · exact (Except.ok.inj h).symm

namespace Machine

theorem exec_tdiOp_sel {p : Shift} {s t : State} (h : exec ((tdiOp s.sel).instr p) s = .next t) :
    t.sel = tableNextSel s.sel (.drTdi p) := by
  cases hsel : s.sel <;> (rw [hsel] at h; cases h)
  case bypass => rfl
  all_goals exact hsel

theorem exec_tdoOp_sel {p : Shift} {s t : State} (h : exec ((tdoOp s.sel).instr p) s = .next t) :
    t.sel = tableNextSel s.sel (.drTdo p) := by
  cases hsel : s.sel <;> (rw [hsel] at h; cases h)
  case bypass | idcode => rfl
  all_goals exact hsel

/-- The step of an event that is no IR event moves `sel` as R77's table says. -/
theorem step_event_sel {s t : State} {e : Event} {rest : List Item} (hs : s.stream = .event e :: rest)
    (h : step s = .next t) (hir : e.kind ≠ .ir) : t.sel = tableNextSel s.sel e := by
  obtain ⟨x, rest', i, hs', hd, he⟩ := step_cases h
  obtain ⟨rfl, rfl⟩ : Item.event e = x ∧ rest = rest' := by simpa [hs] using hs'
  cases e with
  | notify =>
    obtain rfl := decodeKey_eq_ok (lookupKey_notify s.sel) hd
    cases he
    rfl
  | ir p => exact absurd rfl hir
  | drTdi p =>
    obtain rfl := decodeKey_eq_ok (lookupKey_drTdi s.sel p) hd
    exact exec_tdiOp_sel (s := { s with stream := rest }) he
  | drTdo p =>
    obtain rfl := decodeKey_eq_ok (lookupKey_drTdo s.sel p) hd
    exact exec_tdoOp_sel (s := { s with stream := rest }) he

/-- Where R77's table changes `sel` without an IR event: out of BYPASS and out of IDCODE, into IDLE. -/
theorem tableNextSel_ne {x : Sel} {e : Event} (hir : e.kind ≠ .ir) (h : tableNextSel x e ≠ x) :
    (x = .bypass ∧ tableNextSel x e = .idle ∧ e.isDr = true)
      ∨ (x = .idcode ∧ tableNextSel x e = .idle ∧ e.kind = .drTdo) := by
  cases e with
  | notify => exact absurd rfl h
  | ir p => exact absurd rfl hir
  | drTdi p =>
    obtain rfl : x = .bypass := by
      by_contra hx
      exact h (if_neg hx)
    exact .inl ⟨rfl, rfl, rfl⟩
  | drTdo p =>
    obtain rfl | rfl : x = .bypass ∨ x = .idcode := by
      by_contra hx
      exact h (if_neg hx)
    · exact .inl ⟨rfl, rfl, rfl⟩
    · exact .inr ⟨rfl, rfl, rfl⟩

end Machine
end Sys2Proof

/-- Settles O35: without an IR event `sel` moves as R77's table says, and that is a change in two cells only. -/
theorem onlyTheNamedEventsChangeSel : Obligations.OnlyTheNamedEventsChangeSel := by
  unfold Obligations.OnlyTheNamedEventsChangeSel
  intro s t e rest hs h hne
  by_cases hir : e.kind = .ir
  · exact .inl hir
  · rw [Sys2Proof.Machine.step_event_sel hs h hir] at hne ⊢
    exact .inr (Sys2Proof.Machine.tableNextSel_ne hir hne)

/-- Settles O27: every field of the reset state is written out in the model. -/
theorem resetStateIsIdle : Obligations.ResetStateIsIdle := by
  unfold Obligations.ResetStateIsIdle
  exact ⟨rfl, rfl, rfl, rfl, rfl, rfl, rfl, rfl⟩
end

section
/-! PROOFS. The step and the latch (R11, R26, R33, R60): every step of a payload-bearing event latches that event's
own ranges, whichever operation it is and whatever `sel` is, and only a paired payload gets so far (R41). -/

namespace Sys2Proof

/-- An operation met by a payload's key is not NOTIFY: NOTIFY's row takes the keys of notifications alone (R42). -/
theorem lookupKey_of_ne_notify (sel : Sel) {e : Event} (he : e ≠ .notify) :
    ∃ op, lookupKey (dispatchKey sel e) = some op ∧ op ≠ .notify := by
  cases e with
  | notify => exact absurd rfl he
  | ir p =>
    refine ⟨_, lookupKey_ir_fields sel (Event.ir p).short (Event.ir p).ir4, ?_⟩
    split_ifs <;> decide
  | drTdi p => exact ⟨tdiOp sel, lookupKey_drTdi sel p, by cases sel <;> decide⟩
  | drTdo p => exact ⟨tdoOp sel, lookupKey_drTdo sel p, by cases sel <;> decide⟩

/-- Only a paired payload is decoded (R41). -/
theorem paired_of_decodeKey_eq_ok {pk : Packet} {op : KOp} {i : Instr} (hop : lookupKey pk.code = some op)
    (hn : op ≠ .notify) (h : decodeKey pk = .ok i) : pk.shift.paired = true := by
  cases hp : pk.shift.paired with
  | true => rfl
  | false => simp [decodeKey, hop, hn, hp] at h

namespace Machine

/-- Every key-selected operation but NOTIFY begins with the latch, and nothing after that writes it (R60). -/
theorem exec_instr_ranges {op : KOp} {p : Shift} {s t : State} (hn : op ≠ .notify)
    (h : exec (op.instr p) s = .next t) : t.ranges = p.rangesRaw.reverse := by
  cases op with
  | notify => exact absurd rfl hn
  | _ => cases h; rfl

/-- The step of a payload-bearing event latches the delivered ranges reversed, one for each bit (R11, R26, R41). -/
theorem step_event_ranges {s t : State} {e : Event} {rest : List Item} (hs : s.stream = .event e :: rest)
    (he : e ≠ .notify) (h : step s = .next t) :
    t.ranges = e.shift.rangesRaw.reverse ∧ e.shift.rangesRaw.length = e.shift.bits.length := by
  obtain ⟨x, rest', i, hs', hd, hexec⟩ := step_cases h
  obtain ⟨rfl, rfl⟩ : Item.event e = x ∧ rest = rest' := by simpa [hs] using hs'
  obtain ⟨op, hop, hn⟩ := lookupKey_of_ne_notify s.sel he
  obtain rfl := decodeKey_eq_ok hop hd
  exact ⟨exec_instr_ranges hn hexec, beq_iff_eq.1 (paired_of_decodeKey_eq_ok hop hn hd)⟩

end Machine
end Sys2Proof

/-- Settles O36: the latch is the delivered list reversed, read index by index. -/
theorem latchHoldsTheReversedRanges : Obligations.LatchHoldsTheReversedRanges := by
  unfold Obligations.LatchHoldsTheReversedRanges
  intro s t e rest hs he h
  obtain ⟨hranges, hpaired⟩ := Sys2Proof.Machine.step_event_ranges hs he h
  rw [hranges, ← hpaired]
  exact ⟨List.length_reverse, fun p hp => List.getElem?_reverse hp⟩

/-- Settles O6: fetching hands `exec` the decoded operation. That it is well formed is not needed. -/
theorem stepRunsTheDecodedOperation : Obligations.StepRunsTheDecodedOperation := by
  unfold Obligations.StepRunsTheDecodedOperation
  intro s x rest i hs hd _
  exact Sys2Proof.Machine.step_eq_exec hs hd
end

section
/-! PROOFS. The four lookup tables (R20 to R24). The open rows of `PART_TABLE` enter through `freshKey_not_mem` alone,
so nothing here depends on their keys or names (decision D18). -/

namespace Sys2Proof.Machine

/-- Four different candidates cannot all be among three used keys, so `freshKey` finds one that is not. -/
theorem freshKey_not_mem {used : List (BitVec 16)} (seed : BitVec 16) (h : used.length ≤ 3) :
    freshKey used seed ∉ used := by
  have hnodup : ([0#16, 1#16, 2#16, 3#16].map (seed + ·)).Nodup :=
    List.Nodup.map (add_right_injective seed) (by decide)
  unfold freshKey
  cases hfind : ([0#16, 1#16, 2#16, 3#16].map (seed + ·)).find? fun k => !used.contains k with
  | some k => simpa using List.find?_some hfind
  | none =>
    have hsub : [0#16, 1#16, 2#16, 3#16].map (seed + ·) ⊆ used := fun k hk => by
      simpa using List.find?_eq_none.1 hfind k hk
    have hle := (List.subperm_of_subset hnodup hsub).length_le
    simp only [List.length_map, List.length_cons, List.length_nil] at hle
    omega

/-- The keys of `PART_TABLE` are distinct: each open one is fresh for those before it (R23). -/
theorem partTable_keys_nodup : (partTable.map Prod.fst).Nodup := by
  have h1 : partKey1 ∉ [knownPartKey] := freshKey_not_mem _ (by simp)
  have h2 : partKey2 ∉ [knownPartKey, partKey1] := freshKey_not_mem _ (by simp)
  have h3 : partKey3 ∉ [knownPartKey, partKey1, partKey2] := freshKey_not_mem _ (by simp)
  simp only [List.mem_cons, List.not_mem_nil, or_false, not_or] at h1 h2 h3
  obtain ⟨h20, h21⟩ := h2
  obtain ⟨h30, h31, h32⟩ := h3
  simp [partTable, Ne.symm h1, Ne.symm h20, Ne.symm h21, Ne.symm h30, Ne.symm h31, Ne.symm h32]

/-- `PART` gives nothing exactly outside the table's keys (R23). -/
theorem partLookup_eq_none_iff (p : BitVec 16) : partLookup p = none ↔ p ∉ partTable.map Prod.fst := by
  simp only [partLookup, List.lookup_eq_none_iff, List.mem_map, not_exists, not_and, bne_iff_ne, ne_eq, @eq_comm _ p]

/-- `IRMAP` off its three assigned keys (R21); a key of another length is one of these (decision D10). -/
theorem irMap_of_unassigned {k : Bits} (hidcode : k ≠ [false, false, true, true])
    (hpdicom : k ≠ [false, true, true, true]) (hbypass : k ≠ [true, true, true, true]) : irMap k = (.unknown, 0) := by
  simp [irMap, hidcode, hpdicom, hbypass]

/-- `MANUF` off its one assigned key (R22). -/
theorem manufName_of_ne {m : BitVec 11} (h : m ≠ 0x01F#11) : manufName m = "INVALID" :=
  if_neg h

/-- `SPECIAL` off its three assigned keys (R24). -/
theorem specialOf_of_unassigned {d : BitVec 8} (hbrk : d ≠ 0xBB#8) (hdelay : d ≠ 0xDB#8) (hempty : d ≠ 0xEB#8) :
    specialOf d = .invalid := by
  simp [specialOf, hbrk, hdelay, hempty]

end Sys2Proof.Machine

/-- Settles O55: the three open keys are fresh, whatever their seeds are. -/
theorem partTableHasFourDistinctKeys : Obligations.PartTableHasFourDistinctKeys := by
  unfold Obligations.PartTableHasFourDistinctKeys
  exact ⟨rfl, Sys2Proof.Machine.partTable_keys_nodup, List.lookup_cons_self,
    Sys2Proof.Machine.partLookup_eq_none_iff⟩

/-- Settles O53: the three assigned keys by evaluation, every other key by falling through the three tests. -/
theorem irMapHasThreeEntries : Obligations.IrMapHasThreeEntries := by
  unfold Obligations.IrMapHasThreeEntries
  exact ⟨rfl, rfl, rfl, fun _ => Sys2Proof.Machine.irMap_of_unassigned⟩

/-- Settles O54: the assigned keys by evaluation, every other key by falling through the tests. -/
theorem manufacturerAndSpecialTables : Obligations.ManufacturerAndSpecialTables := by
  unfold Obligations.ManufacturerAndSpecialTables
  exact ⟨rfl, fun _ => Sys2Proof.Machine.manufName_of_ne, rfl, rfl, rfl,
    fun _ => Sys2Proof.Machine.specialOf_of_unassigned⟩
end

section
/-! PROOFS. The dispatch key (R42): its four fields side by side are read back from their places, and it meets one row
of the operation map only. -/

namespace Sys2Proof

/-- `kind` is the key's top two bits, whatever the other fields hold. -/
theorem keyFields_kind (kind : BitVec 2) (sel : BitVec 3) (short : Bool) (ir4 : BitVec 4) :
    (kind ++ sel ++ BitVec.ofBool short ++ ir4).extractLsb' 8 2 = kind := by
  rw [BitVec.extractLsb'_append_eq_of_le (by decide), BitVec.extractLsb'_append_eq_of_le (by decide),
    BitVec.extractLsb'_append_eq_of_le (by decide), BitVec.extractLsb'_eq_self]

theorem keySel_fields (kind : BitVec 2) (sel : BitVec 3) (short : Bool) (ir4 : BitVec 4) :
    keySel (kind ++ sel ++ BitVec.ofBool short ++ ir4) = sel := by
  rw [keySel, BitVec.extractLsb'_append_eq_of_le (by decide), BitVec.extractLsb'_append_eq_of_le (by decide),
    BitVec.extractLsb'_append_eq_of_add_le (by decide), BitVec.extractLsb'_eq_self]

theorem keyShort_fields (kind : BitVec 2) (sel : BitVec 3) (short : Bool) (ir4 : BitVec 4) :
    keyShort (kind ++ sel ++ BitVec.ofBool short ++ ir4) = short := by
  rw [keyShort, BitVec.getLsbD_append, if_neg (by decide), BitVec.getLsbD_append, if_pos (by decide)]
  simp

theorem keyIr4_fields (kind : BitVec 2) (sel : BitVec 3) (short : Bool) (ir4 : BitVec 4) :
    keyIr4 (kind ++ sel ++ BitVec.ofBool short ++ ir4) = ir4 := by
  rw [keyIr4, BitVec.extractLsb'_append_eq_of_add_le (by decide), BitVec.extractLsb'_eq_self]

@[simp] theorem keyShort_dispatchKey (sel : Sel) (e : Event) : keyShort (dispatchKey sel e) = e.short :=
  keyShort_fields ..

@[simp] theorem keyIr4_dispatchKey (sel : Sel) (e : Event) : keyIr4 (dispatchKey sel e) = e.ir4 :=
  keyIr4_fields ..

@[simp] theorem Sel.ofCode_code (sel : Sel) : Sel.ofCode sel.code = some sel := by
  cases sel <;> rfl

/-- Where the masks of two rows overlap their patterns differ, unless they are one row (R42's table). -/
theorem kRows_disjoint : ∀ r ∈ kRows, ∀ r' ∈ kRows, r.pattern &&& r'.mask = r'.pattern &&& r.mask → r = r' := by
  decide

/-- No word, the key of an event or not, matches two rows. -/
theorem KRow.eq_of_hits {r r' : KRow} {k : BitVec 10} (hr : r ∈ kRows) (hr' : r' ∈ kRows) (h : r.hits k = true)
    (h' : r'.hits k = true) : r = r' := by
  have hp : k &&& r.mask = r.pattern := beq_iff_eq.1 h
  have hp' : k &&& r'.mask = r'.pattern := beq_iff_eq.1 h'
  refine kRows_disjoint r hr r' hr' ?_
  calc r.pattern &&& r'.mask = k &&& r.mask &&& r'.mask := by rw [hp]
    _ = k &&& r'.mask &&& r.mask := by rw [BitVec.and_assoc, BitVec.and_comm r.mask, BitVec.and_assoc]
    _ = r'.pattern &&& r.mask := by rw [hp']

/-- The operation a word selects is that of a row it matches. -/
theorem exists_row_of_lookupKey {k : BitVec 10} {op : KOp} (h : lookupKey k = some op) :
    ∃ r ∈ kRows, r.hits k = true ∧ r.op = op := by
  obtain ⟨r, hfind, hop⟩ := Option.map_eq_some_iff.1 h
  exact ⟨r, List.mem_of_find?_eq_some hfind, List.find?_some (p := fun r : KRow => r.hits k) hfind, hop⟩

end Sys2Proof
end

section
/-! PROOFS. What a stream entry decodes to (R42, R47, R55), said once: a well-formed entry to the one operation
`Item.instr` names, any other entry to none (R41). -/

namespace Sys2Proof

open Machine

/-! ## IR payloads -/

/-- The register of four opcode bits (R21), by their value. -/
def nibbleName (x : BitVec 4) : RegName :=
  if x = 0b0011#4 then .idcode
  else if x = 0b0111#4 then .pdicom
  else if x = 0b1111#4 then .bypass
  else .unknown

/-- The operation of an IR event, by the register it selects (R63 to R66). -/
def irOp : RegName → KOp
  | .idcode => .irIdcode
  | .pdicom => .irPdicom
  | .bypass => .irBypass
  | .unknown => .irUnknown

theorem irName_of_short {v : Bits} (h : v.length < 4) : irName v = .unknown := by
  have hlen : (irOpcode v).length ≠ 4 := by
    simp only [irOpcode, slice_length, Config.irOpcodeWidth]
    omega
  exact if_neg hlen

theorem slice_opcode_length {v : Bits} (h : ¬ v.length < 4) : (slice 0 4 v).length = 4 := by
  rw [slice_length]
  omega

/-- A payload with an opcode names the register `IRMAP` has for it. -/
theorem irName_of_not_short {v : Bits} (h : ¬ v.length < 4) : irName v = (irMap (slice 0 4 v)).1 :=
  if_pos (slice_opcode_length h)

/-- `IRMAP` reads its four-bit keys by their value. -/
theorem irMap_of_length_four {b : Bits} (h : b.length = 4) : (irMap b).1 = nibbleName (BitVec.ofNat 4 (val b)) := by
  have hval (o : Bits) (ho : o.length = 4) : b = o ↔ BitVec.ofNat 4 (val b) = BitVec.ofNat 4 (val o) :=
    ⟨fun e => e ▸ rfl, Laws.EncodedRow.nibble_eq h ho⟩
  have hidcode : b = [false, false, true, true] ↔ BitVec.ofNat 4 (val b) = 0b0011#4 := hval _ rfl
  have hpdicom : b = [false, true, true, true] ↔ BitVec.ofNat 4 (val b) = 0b0111#4 := hval _ rfl
  have hbypass : b = [true, true, true, true] ↔ BitVec.ofNat 4 (val b) = 0b1111#4 := hval _ rfl
  simp only [irMap, nibbleName, hidcode, hpdicom, hbypass]
  split_ifs <;> rfl

/-- A selectable register is named by the payloads that begin with its opcode, and by no others (R44). -/
theorem irName_eq_toRegName {v : Bits} {n : Selectable} (h : irName v = n.toRegName) :
    ¬ v.length < 4 ∧ slice 0 4 v = n.opcode := by
  have hlong : ¬ v.length < 4 := fun hs => by
    rw [irName_of_short hs] at h
    cases n <;> cases h
  refine ⟨hlong, ?_⟩
  rw [irName_of_not_short hlong] at h
  by_contra hne
  unfold irMap at h
  cases n <;> split_ifs at h <;> contradiction

@[simp] theorem irName_opcode (n : Selectable) : irName n.opcode = n.toRegName := by
  cases n <;> rfl

/-- The register a key's `short` and `ir4` tell is the one its payload names. -/
theorem irName_of_keyAgrees {k : BitVec 10} {v : Bits} (h : keyAgrees k v = true) :
    irName v = if keyShort k then .unknown else nibbleName (keyIr4 k) := by
  unfold keyAgrees at h
  split_ifs at h with hshort
  · simp [h, irName_of_short hshort]
  · simp only [Bool.and_eq_true, Bool.not_eq_true', beq_iff_eq] at h
    obtain ⟨hk, hir4⟩ := h
    rw [irName_of_not_short hshort, irMap_of_length_four (slice_opcode_length hshort), hk, hir4]
    rfl

/-- An IR event's own payload agrees with its key (R42). -/
theorem keyAgrees_dispatchKey (sel : Sel) (p : Shift) : keyAgrees (dispatchKey sel (.ir p)) p.bits = true := by
  by_cases h : p.bits.length < 4 <;> simp [keyAgrees, Event.short, Event.ir4, h]

/-- The rows of the four IR operations: `short` is under the mask, and where it is 0 so is the whole of `ir4`. -/
theorem kRows_isIr : ∀ r ∈ kRows, r.op.isIr = true →
    keyShort r.mask = true ∧ if keyShort r.pattern then r.op = irOp .unknown
      else keyIr4 r.mask = BitVec.allOnes 4 ∧ r.op = irOp (nibbleName (keyIr4 r.pattern)) := by
  decide

/-- Any word that selects an IR operation selects it by its `short` and `ir4` (R42, R63 to R66). -/
theorem lookupKey_isIr {k : BitVec 10} {op : KOp} (h : lookupKey k = some op) (hir : op.isIr = true) :
    op = irOp (if keyShort k then .unknown else nibbleName (keyIr4 k)) := by
  obtain ⟨r, hr, hhits, rfl⟩ := exists_row_of_lookupKey h
  obtain ⟨hmask, hrow⟩ := kRows_isIr r hr hir
  have hp : k &&& r.mask = r.pattern := beq_iff_eq.1 hhits
  have hshort : keyShort r.pattern = keyShort k := by
    simp only [keyShort] at hmask ⊢
    rw [← hp, BitVec.getLsbD_and, hmask, Bool.and_true]
  rw [hshort] at hrow
  split_ifs at hrow ⊢
  · exact hrow
  · obtain ⟨hmask4, hop⟩ := hrow
    have hir4 : keyIr4 r.pattern = keyIr4 k := by
      simp only [keyIr4] at hmask4 ⊢
      rw [← hp, BitVec.extractLsb'_and, hmask4, BitVec.and_allOnes]
    rw [hop, hir4]

/-- The key of an IR event meets the row of the register its payload names. -/
theorem lookupKey_ir (sel : Sel) (p : Shift) :
    lookupKey (dispatchKey sel (.ir p)) = some (irOp (irName p.bits)) := by
  have h : lookupKey (dispatchKey sel (.ir p)) = some _ := lookupKey_ir_fields sel (Event.ir p).short (Event.ir p).ir4
  have hir : ∀ op, lookupKey (dispatchKey sel (.ir p)) = some op → op.isIr = true := by
    rw [h]
    rintro _ ⟨⟩
    split_ifs <;> rfl
  rw [h, lookupKey_isIr h (hir _ h), irName_of_keyAgrees (keyAgrees_dispatchKey sel p)]

/-! ## What each decoder answers -/

/-- Everything a key packet can decode to. -/
theorem decodeKey_cases {pk : Packet} {i : Instr} (h : decodeKey pk = .ok i) :
    ∃ op, lookupKey pk.code = some op ∧ i = op.instr pk.shift ∧ (op ≠ .notify → pk.shift.paired = true)
      ∧ (op.isIr = true → keyAgrees pk.code pk.shift.bits = true) := by
  cases hop : lookupKey pk.code with
  | none => simp [decodeKey, hop] at h
  | some op =>
    refine ⟨op, rfl, decodeKey_eq_ok hop h, fun hn => paired_of_decodeKey_eq_ok hop hn h, fun hir => ?_⟩
    have hn : op ≠ .notify := by
      rintro rfl
      cases hir
    have hp := paired_of_decodeKey_eq_ok hop hn h
    by_contra hk
    rw [Bool.not_eq_true] at hk
    simp [decodeKey, hop, hn, hir, hp, hk] at h

/-- Everything a frame packet can decode to. -/
theorem decodeFrame_cases {pk : Packet} {i : Instr} (h : decodeFrame pk = .ok i) :
    pk.shift.paired = true ∧ i = (frameClass pk.shift.bits).instr pk.dir pk.shift := by
  unfold decodeFrame at h
  split_ifs at h with hp
  exact ⟨by simpa using hp, (Except.ok.inj h).symm⟩

/-- Everything a shorthand packet can decode to. -/
theorem decodePseudo_cases {pk : Packet} {i : Instr} (h : decodePseudo pk = .ok i) :
    pk.shift.paired = true ∧
      ((pk.tdo.length = pk.shift.bits.length ∧ i = .shiftDr pk.shift pk.tdo)
        ∨ (pk.code &&& 0x200#10 ≠ 0x200#10 ∧ ∃ name, pk.shift.bits = name.opcode
          ∧ i = .select name pk.shift.rangesRaw pk.shift.ss pk.shift.es)) := by
  unfold decodePseudo at h
  split at h
  case isTrue hcode =>
    split_ifs at h with hp hlen
    exact ⟨by simpa using hp, .inl ⟨by simpa using hlen, (Except.ok.inj h).symm⟩⟩
  case isFalse hcode =>
    split at h
    case isTrue =>
      split at h
      case h_1 => cases h
      case h_2 name _ =>
        split_ifs at h with hbits hp
        exact ⟨by simpa using hp, .inr ⟨hcode, name, by simpa using hbits, (Except.ok.inj h).symm⟩⟩
    case isFalse => cases h

/-- A key operation whose payload is paired and names the register the operation selects. -/
theorem KOp.instr_wf {op : KOp} {p : Shift} (hp : op ≠ .notify → p.paired = true)
    (hir : op.isIr = true → op = irOp (irName p.bits)) : (op.instr p).wf = true := by
  cases op with
  | notify => rfl
  | irIdcode | irPdicom | irBypass | irUnknown =>
    have hop := hir rfl
    have hpaired := hp (by decide)
    cases hname : irName p.bits <;> rw [hname] at hop <;> cases hop
    simp [KOp.instr, Instr.wf, hname, hpaired]
  | _ => exact hp (by decide)

theorem FrameClass.instr_wf {dir : Direction} {p : Shift} (hp : p.paired = true) :
    ((frameClass p.bits).instr dir p).wf = true := by
  cases hc : frameClass p.bits <;> simp [FrameClass.instr, Instr.wf, hp, hc]

@[simp] theorem Selectable.opcode_length (n : Selectable) : n.opcode.length = 4 := by
  cases n <;> rfl

/-- The decoder answers well-formed operations only, whatever the packet (R41). -/
theorem wf_of_decode {pk : Packet} {i : Instr} (h : decode pk = .ok i) : i.wf = true := by
  unfold decode at h
  split at h
  · obtain ⟨op, hop, rfl, hp, hk⟩ := decodeKey_cases h
    refine KOp.instr_wf hp fun hir => ?_
    rw [irName_of_keyAgrees (hk hir)]
    exact lookupKey_isIr hop hir
  · obtain ⟨hp, rfl⟩ := decodeFrame_cases h
    exact FrameClass.instr_wf hp
  · obtain ⟨hp, ⟨hlen, rfl⟩ | ⟨-, name, hbits, rfl⟩⟩ := decodePseudo_cases h
    · simp [Instr.wf, hp, hlen]
    · simpa [Shift.paired, Instr.wf, hbits] using hp
  · obtain rfl := Except.ok.inj h
    rfl

/-! ## Entries -/

/-- The key operation an event is in a state (R42). -/
def Event.op (sel : Sel) : Event → KOp
  | .notify => .notify
  | .ir p => irOp (irName p.bits)
  | .drTdi _ => tdiOp sel
  | .drTdo _ => tdoOp sel

/-- The operation a stream entry is in a state (R42, R47, R55). -/
def Item.instr (sel : Sel) : Item → Instr
  | .event e => (e.op sel).instr e.shift
  | .reset => .reset
  | .select name rangesRaw ss es => .select name rangesRaw ss es
  | .shiftDr tdi tdo => .shiftDr tdi tdo
  | .frame dir p => (frameClass p.bits).instr dir p

theorem lookupKey_event (sel : Sel) (e : Event) : lookupKey (dispatchKey sel e) = some (e.op sel) := by
  cases e with
  | notify => exact lookupKey_notify sel
  | ir p => exact lookupKey_ir sel p
  | drTdi p => exact lookupKey_drTdi sel p
  | drTdo p => exact lookupKey_drTdo sel p

/-- A well-formed IR event decodes to the operation of the register it names (R62 to R66). -/
theorem decode_ir (sel : Sel) (p : Shift) (h : p.paired = true) :
    decode (Event.packet sel (.ir p)) = .ok ((irOp (irName p.bits)).instr p) := by
  simp only [decode, Event.packet, decodeKey, lookupKey_ir, Event.shift, keyAgrees_dispatchKey, h]
  cases irName p.bits <;> rfl

/-- A well-formed entry decodes to its operation, whatever `sel` is. -/
theorem decode_packet {x : Item} (sel : Sel) (h : x.wf = true) : decode (x.packet sel) = .ok (x.instr sel) := by
  cases x with
  | event e =>
    cases e with
    | notify =>
      simp only [decode, Item.packet, Event.packet, decodeKey, lookupKey_notify]
      rfl
    | ir p => exact decode_ir sel p h
    | drTdi p => exact decode_drTdi sel p h
    | drTdo p => exact decode_drTdo sel p h
  | reset => rfl
  | select name rangesRaw ss es =>
    have hlen : rangesRaw.length = 4 := beq_iff_eq.1 h
    cases name <;> simp [decode, Item.packet, decodePseudo, Shift.paired, Selectable.opcode, hlen] <;> rfl
  | shiftDr tdi tdo =>
    simp only [Item.wf, Bool.and_eq_true, beq_iff_eq] at h
    simp [decode, Item.packet, decodePseudo, h, Item.instr]
  | frame dir p =>
    have hp : p.paired = true := h
    by_cases hlen : p.bits.length = 9 <;> simp [decode, Item.packet, decodeFrame, hp, hlen, Item.instr]

/-- Only a well-formed entry decodes (R41, decision D21). -/
theorem wf_of_decode_packet {x : Item} {sel : Sel} {i : Instr} (h : decode (x.packet sel) = .ok i) : x.wf = true := by
  cases x with
  | event e =>
    by_cases he : e = .notify
    · subst he; rfl
    · obtain ⟨op, hop, hn⟩ := lookupKey_of_ne_notify sel he
      exact paired_of_decodeKey_eq_ok (pk := e.packet sel) hop hn h
  | reset => rfl
  | select name rangesRaw ss es =>
    obtain ⟨hp, -⟩ := decodePseudo_cases h
    simpa [Item.packet, Shift.paired, Item.wf] using hp
  | shiftDr tdi tdo =>
    obtain ⟨hp, ⟨hlen, -⟩ | ⟨hcode, -⟩⟩ := decodePseudo_cases h
    · exact Bool.and_eq_true_iff.2 ⟨hp, beq_iff_eq.2 hlen⟩
    · exact absurd (show 0x200#10 &&& 0x200#10 = 0x200#10 by decide) hcode
  | frame dir p => exact (decodeFrame_cases h).1

/-- The entry's operation is the only one it decodes to. -/
theorem eq_instr_of_decode_packet {x : Item} {sel : Sel} {i : Instr} (h : decode (x.packet sel) = .ok i) :
    i = x.instr sel :=
  Except.ok.inj (h.symm.trans (decode_packet sel (wf_of_decode_packet h)))

end Sys2Proof
end

section
/-! PROOFS. Nine-bit frames as a parity bit and a byte (R46, R91): what is read back from them, and which frames the
three special characters are (R47). -/

namespace Sys2Proof

open Machine

/-- A string is rebuilt from its value held in a word of its length. -/
theorem bin_ofNat_val {n : Nat} {b : Bits} (h : b.length = n) : bin n (BitVec.ofNat n (val b)).toNat = b := by
  subst h
  rw [BitVec.toNat_ofNat, Nat.mod_eq_of_lt (val_lt b), bin_val]

/-- A word is read back from the string of its value. -/
theorem ofNat_val_bin {n : Nat} (x : BitVec n) : BitVec.ofNat n (val (bin n x.toNat)) = x := by
  rw [val_bin, Nat.mod_eq_of_lt x.isLt, BitVec.ofNat_toNat, BitVec.setWidth_eq]

/-- The byte of a frame does not depend on its parity bit (R99 (d)). -/
@[simp] theorem frameByte_cons (par : Bool) (d : BitVec 8) : frameByte (par :: bin 8 d.toNat) = d := by
  rw [frameByte, frameData_cons _ _ (bin_length ..), ofNat_val_bin]

/-- Every 9-bit frame is its parity bit and the bits of its byte (R46). -/
theorem frame_eq_cons {frame : Bits} (h : frame.length = 9) : frame = framePar frame :: bin 8 (frameByte frame).toNat := by
  cases frame with
  | nil => cases h
  | cons par data =>
    have hdata : data.length = 8 := Nat.succ.inj h
    rw [framePar_cons, frameByte, frameData_cons _ _ hdata, bin_ofNat_val hdata]

namespace Machine

/-- The verdict on a frame written head first (R92). -/
theorem frameOk_cons {par : Bool} {data : Bits} (h : data.length = 8) :
    frameOk (par :: data) = ((popcount data + par.toNat) % 2 == 0) := by
  rw [frameOk, framePar_cons, frameData_cons _ _ h, parityOk]

theorem frameClass_of_ok {frame : Bits} (hlen : frame.length = 9) (hok : frameOk frame = true) :
    frameClass frame = .data := by
  simp [frameClass, Config.frameWidth, hlen, hok]

theorem frameClass_of_not_ok {frame : Bits} (hlen : frame.length = 9) (hok : frameOk frame = false) :
    frameClass frame = classOfSpecial (specialOf (frameByte frame)) := by
  simp [frameClass, Config.frameWidth, hlen, hok]

/-- Only a 9-bit frame that fails parity falls in a class by the label of its byte (R47). -/
theorem frameClass_eq_classOfSpecial {frame : Bits} {c : Special} (h : frameClass frame = classOfSpecial c) :
    frame.length = 9 ∧ frameOk frame = false ∧ specialOf (frameByte frame) = c := by
  unfold frameClass at h
  split_ifs at h with hlen hok
  · cases c <;> cases h
  · cases c <;> cases h
  · have hinj : Function.Injective classOfSpecial := by
      intro a b
      cases a <;> cases b <;> simp [classOfSpecial]
    exact ⟨by simpa [Config.frameWidth] using hlen, by simpa using hok, hinj h⟩

/-- A frame whose class is that of the label of one byte `d`, with parity bit 1 where 0 would be valid. -/
theorem frame_eq_of_special {frame : Bits} {c : Special} {d : BitVec 8} (h : frameClass frame = classOfSpecial c)
    (hkey : ∀ x, specialOf x = c → x = d) (hpar : frameOk (false :: bin 8 d.toNat) = true) :
    frame = true :: bin 8 d.toNat := by
  obtain ⟨hlen, hok, hc⟩ := frameClass_eq_classOfSpecial h
  have hframe := frame_eq_cons hlen
  rw [hkey _ hc] at hframe
  cases hp : framePar frame <;> rw [hp] at hframe
  · rw [hframe, hpar] at hok
    cases hok
  · exact hframe

theorem specialOf_eq_brk {d : BitVec 8} (h : specialOf d = .brk) : d = 0xBB#8 := by
  unfold specialOf at h
  split_ifs at h
  assumption

theorem specialOf_eq_delay {d : BitVec 8} (h : specialOf d = .delay) : d = 0xDB#8 := by
  unfold specialOf at h
  split_ifs at h
  assumption

theorem specialOf_eq_empty {d : BitVec 8} (h : specialOf d = .empty) : d = 0xEB#8 := by
  unfold specialOf at h
  split_ifs at h
  assumption

end Machine
end Sys2Proof
end

section
/-! PROOFS. The encoder (R42, R46, R55): it writes the packet of the operation's own stream entry, so what that entry
decodes to is what the encoding decodes to. -/

namespace Sys2Proof

open Machine

/-- The two parts of a check: a paired payload, and the operand the operation's row takes. -/
theorem and_beq_iff {α : Type} [BEq α] [LawfulBEq α] {a : Bool} {x y : α} :
    (a && x == y) = true ↔ a = true ∧ x = y := by
  rw [Bool.and_eq_true_iff, beq_iff_eq]

/-- The entry of a well-formed operation is well formed. -/
theorem itemOf_wf {i : Instr} (h : i.wf = true) : (itemOf i).wf = true := by
  cases i with
  | irIdcode p | irPdicom p | irBypass p | irUnknown p | pdiMalformed _ p | pdiBreak _ p | pdiDelay _ p | pdiEmpty _ p
  | pdiData _ p | pdiInvalid _ p => exact (and_beq_iff.1 h).1
  | _ => exact h

/-- The entry of a well-formed operation is that operation, under the `sel` that selects it. -/
theorem instr_itemOf {i : Instr} (sel : Sel) (h : i.wf = true) : (itemOf i).instr ((selFor i).getD sel) = i := by
  cases i with
  | irIdcode p | irPdicom p | irBypass p | irUnknown p =>
    obtain ⟨-, hname⟩ := and_beq_iff.1 h
    simp [itemOf, Item.instr, Event.op, Event.shift, hname, irOp, KOp.instr]
  | pdiMalformed _ p | pdiBreak _ p | pdiDelay _ p | pdiEmpty _ p | pdiData _ p | pdiInvalid _ p =>
    obtain ⟨-, hclass⟩ := and_beq_iff.1 h
    simp [itemOf, Item.instr, hclass, FrameClass.instr]
  | _ => rfl

/-- The entry of a well-formed operation decodes to it, under the `sel` that selects it. -/
theorem decode_itemOf {i : Instr} (sel : Sel) (h : i.wf = true) :
    decode ((itemOf i).packet ((selFor i).getD sel)) = .ok i := by
  rw [decode_packet _ (itemOf_wf h), instr_itemOf sel h]

/-- The encoder's key of an IR payload is the dispatch key of its event, `sel` bits 0. -/
theorem irKey_eq_dispatchKey (p : Shift) : irKey p.bits = dispatchKey .idle (.ir p) := by
  by_cases h : p.bits.length < 4
  · simp only [irKey, dispatchKey, Event.short, Event.ir4, Event.kind, h, if_true]
    rfl
  · simp only [irKey, dispatchKey, Event.short, Event.ir4, Event.kind, h, if_false]
    rfl

/-- The encoder's key of a payload that names a selectable register holds the register's opcode. -/
theorem irKey_of_toRegName {v : Bits} {n : Selectable} (h : irName v = n.toRegName) :
    irKey v = 0b010000#6 ++ BitVec.ofNat 4 (val n.opcode) := by
  obtain ⟨hlong, hopcode⟩ := irName_eq_toRegName h
  rw [irKey, if_neg hlong, hopcode]

/-- The packet of a key operation of an IR payload. -/
theorem keyPacket_irKey (p : Shift) : keyPacket (irKey p.bits) p = Event.packet .idle (.ir p) := by
  rw [irKey_eq_dispatchKey]
  rfl

/-- A DR_TDI operation is encoded as its event, met with the operation's `sel`. -/
theorem encode_tdiOp (sel : Sel) (p : Shift) : encode ((tdiOp sel).instr p) = Event.packet sel (.drTdi p) := by
  rw [Event.packet, dispatchKey_drTdi]
  cases sel <;> exact congrArg (keyPacket · p) (by decide)

/-- A DR_TDO operation is encoded as its event, met with the operation's `sel`. -/
theorem encode_tdoOp (sel : Sel) (p : Shift) : encode ((tdoOp sel).instr p) = Event.packet sel (.drTdo p) := by
  rw [Event.packet, dispatchKey_drTdo]
  cases sel <;> exact congrArg (keyPacket · p) (by decide)

/-- The packet of a payload that names a selectable register, its key written out. -/
theorem keyPacket_of_toRegName {p : Shift} {n : Selectable} {code : BitVec 10} (h : irName p.bits = n.toRegName)
    (hcode : code = 0b010000#6 ++ BitVec.ofNat 4 (val n.opcode)) : keyPacket code p = Event.packet .idle (.ir p) := by
  rw [hcode, ← irKey_of_toRegName h, keyPacket_irKey]

/-- The packet of a special character's frame, its word written out. -/
theorem framePacket_of_special {dir : Direction} {p : Shift} {c : Special} {d : BitVec 8}
    (h : frameClass p.bits = classOfSpecial c) (hkey : ∀ x, specialOf x = c → x = d)
    (hpar : frameOk (false :: bin 8 d.toNat) = true) :
    ⟨.f, BitVec.ofNat 10 (val (true :: bin 8 d.toNat)), dir, p, []⟩ = framePacket dir p := by
  simp [framePacket, frame_eq_of_special h hkey hpar]

/-- The encoder writes the packet of the operation's own entry. -/
theorem encode_eq_packet {i : Instr} (h : i.wf = true) : encode i = (itemOf i).packet ((selFor i).getD .idle) := by
  cases i with
  | irIdcode p => exact keyPacket_of_toRegName (n := .idcode) (and_beq_iff.1 h).2 (by decide)
  | irPdicom p => exact keyPacket_of_toRegName (n := .pdicom) (and_beq_iff.1 h).2 (by decide)
  | irBypass p => exact keyPacket_of_toRegName (n := .bypass) (and_beq_iff.1 h).2 (by decide)
  | irUnknown p => exact keyPacket_irKey p
  | drTdiIdle p => exact encode_tdiOp .idle p
  | drTdoIdle p => exact encode_tdoOp .idle p
  | drTdiBypass p => exact encode_tdiOp .bypass p
  | drTdoBypass p => exact encode_tdoOp .bypass p
  | drTdiIdcode p => exact encode_tdiOp .idcode p
  | drTdoIdcode p => exact encode_tdoOp .idcode p
  | drTdiPdicom p => exact encode_tdiOp .pdicom p
  | drTdoPdicom p => exact encode_tdoOp .pdicom p
  | drTdiUnknown p => exact encode_tdiOp .unknown p
  | drTdoUnknown p => exact encode_tdoOp .unknown p
  | pdiBreak dir p =>
    exact framePacket_of_special (c := .brk) (and_beq_iff.1 h).2 (fun _ => specialOf_eq_brk) (by decide)
  | pdiDelay dir p =>
    exact framePacket_of_special (c := .delay) (and_beq_iff.1 h).2 (fun _ => specialOf_eq_delay) (by decide)
  | pdiEmpty dir p =>
    exact framePacket_of_special (c := .empty) (and_beq_iff.1 h).2 (fun _ => specialOf_eq_empty) (by decide)
  | _ => rfl

namespace Machine

/-- A placed operation that is well formed is what the next step runs, its entry consumed. -/
theorem step_placeInstr {i : Instr} (s : State) (h : i.wf = true) :
    step (placeInstr i s) = exec i { s with sel := (selFor i).getD s.sel } :=
  step_eq_exec (s := placeInstr i s) rfl (decode_itemOf s.sel h)

/-- The word of an operation is decoded by `decode`, so the operation is well formed. -/
theorem wf_of_decodeTableWord {nbits w : Nat} {i : Instr} (h : decodeTableWord nbits w = some i) : i.wf = true := by
  simp only [decodeTableWord] at h
  split_ifs at h
  split at h
  case h_1 j hd =>
    obtain rfl := Option.some.inj h
    exact wf_of_decode hd
  case h_2 => cases h

end Machine
end Sys2Proof

/-- Settles O1: the encoding is the packet of the operation's entry, and that decodes to the operation. -/
theorem decodeEncodeRoundTrip : Obligations.DecodeEncodeRoundTrip := by
  unfold Obligations.DecodeEncodeRoundTrip
  intro i h
  rw [Sys2Proof.encode_eq_packet h, Sys2Proof.decode_itemOf _ h]

/-- Settles O3: the decoder finds a row for the key of any event, and no word matches two rows. -/
theorem everyKeyMeetsExactlyOneRow : Obligations.EveryKeyMeetsExactlyOneRow := by
  unfold Obligations.EveryKeyMeetsExactlyOneRow
  intro sel e _
  obtain ⟨r, hr, hhits, -⟩ := Sys2Proof.exists_row_of_lookupKey (Sys2Proof.lookupKey_event sel e)
  exact ⟨r, ⟨hr, hhits⟩, fun r' ⟨hr', hhits'⟩ => Sys2Proof.KRow.eq_of_hits hr' hr hhits' hhits⟩

/-- Settles O4: each field of the key is where R42 puts it. -/
theorem dispatchKeyFieldsReadBack : Obligations.DispatchKeyFieldsReadBack := by
  unfold Obligations.DispatchKeyFieldsReadBack
  intro sel e
  refine ⟨Sys2Proof.keyFields_kind .., ?_, Sys2Proof.keyShort_dispatchKey sel e, Sys2Proof.keyIr4_dispatchKey sel e⟩
  rw [Sys2Proof.dispatchKey, Sys2Proof.keySel_fields, Sys2Proof.Sel.ofCode_code]

/-- Settles O7: a word's operation is well formed, so the entry placed for it decodes to it. -/
theorem placedWordIsRunNext : Obligations.PlacedWordIsRunNext := by
  unfold Obligations.PlacedWordIsRunNext
  intro s nbits w i h
  have hplace : s.withFetchWord nbits w = Sys2Proof.Machine.placeInstr i s := by
    simp [Sys2Proof.Machine.State.withFetchWord, h]
  rw [hplace, Sys2Proof.Machine.step_placeInstr s (Sys2Proof.Machine.wf_of_decodeTableWord h)]

/-- Settles O9: an entry that decodes is well formed, so this one is rejected, and the step is refused. -/
theorem illFormedEntryIsRefused : Obligations.IllFormedEntryIsRefused := by
  unfold Obligations.IllFormedEntryIsRefused
  intro s x rest hs hwf
  cases hd : Sys2Proof.decode (x.packet s.sel) with
  | error e => exact ⟨e, Sys2Proof.Machine.step_refused_of_decode hs hd⟩
  | ok i => exact absurd (Sys2Proof.wf_of_decode_packet hd) (by simp [hwf])

/-- Settles O5: five words, by evaluation. -/
theorem writtenWordsDecode : Obligations.WrittenWordsDecode := by
  unfold Obligations.WrittenWordsDecode
  exact ⟨by decide, by decide, by decide, by decide, by decide⟩
end

section
/-! PROOFS. Frames as stream entries, and the two shorthands (R47, R55, R94): what each decodes to and does. -/

namespace Sys2Proof.Machine

/-- A paired frame decodes to the operation of its class (R47). -/
theorem decode_frame {c : FrameClass} {p : Shift} (sel : Sel) (dir : Direction) (hp : p.paired = true)
    (hc : frameClass p.bits = c) : decode (Item.packet sel (.frame dir p)) = .ok (c.instr dir p) := by
  rw [decode_packet (x := .frame dir p) sel hp, Item.instr, hc]

/-- The three records of a frame that fails parity, and its result (R94). -/
theorem frameStep_failed (dir : Direction) (p : Shift) (d : BitVec 8) (c : Special) (s : State) :
    (.next (frameStep dir (failedFrameRecords dir p d c) d false s) : Outcome) = .next (s.framed s.ranges
      [spanRecord p.rangesRaw.reverse 1 8 (dataCat dir) (.byte d),
       spanRecord p.rangesRaw.reverse 0 0 (parityCat dir false) (.parity false),
       spanRecord p.rangesRaw.reverse 1 8 (specialCat dir) (.special c)] ⟨dir, d, false⟩) :=
  congrArg Host.Outcome.next (frameStep_eq ..)

/-- PDI.DATA: the two records of a valid byte (R93). -/
theorem exec_pdiData (dir : Direction) (p : Shift) (s : State) :
    exec (.pdiData dir p) s = .next (s.framed s.ranges
      [spanRecord p.rangesRaw.reverse 1 8 (dataCat dir) (.byte (frameByte p.bits)),
       spanRecord p.rangesRaw.reverse 0 0 (parityCat dir true) (.parity true)] ⟨dir, frameByte p.bits, true⟩) :=
  congrArg Host.Outcome.next (frameStep_eq ..)

/-- PDI.INVALID: three records with the label INVALID (R94). -/
theorem exec_pdiInvalid (dir : Direction) (p : Shift) (s : State) :
    exec (.pdiInvalid dir p) s = .next (s.framed s.ranges
      [spanRecord p.rangesRaw.reverse 1 8 (dataCat dir) (.byte (frameByte p.bits)),
       spanRecord p.rangesRaw.reverse 0 0 (parityCat dir false) (.parity false),
       spanRecord p.rangesRaw.reverse 1 8 (specialCat dir) (.special .invalid)] ⟨dir, frameByte p.bits, false⟩) :=
  frameStep_failed ..

/-- Every IR operation selects its register (R62). -/
theorem exec_irOp (name : RegName) (p : Shift) (s : State) :
    exec ((irOp name).instr p) s = .next (selectRegister name p s) := by
  cases name <;> rfl

/-- SELECT is the IR operation of the register it names (R55). -/
theorem exec_select (name : Selectable) (rangesRaw : List SampleRange) (ss es : Sample) (s : State) :
    exec (.select name rangesRaw ss es) s
      = .next (selectRegister name.toRegName ⟨name.opcode, rangesRaw, ss, es⟩ s) := by
  rw [← irName_opcode]
  rfl

/-- SHIFT_DR is its two events, one after the other (R55). -/
theorem exec_shiftDr_eq_next {tdi : Shift} {tdo : Bits} {s u : State} :
    exec (.shiftDr tdi tdo) s = .next u ↔ ∃ t, exec ((tdiOp s.sel).instr tdi) s = .next t
      ∧ exec ((tdoOp t.sel).instr { tdi with bits := tdo }) t = .next u := by
  have h : exec (.shiftDr tdi tdo) s = .next u ↔ _ := andThen_eq_next
  simp only [h, tdiEvent_eq_exec, tdoEvent_eq_exec]

/-- The step of an IR event selects the register its payload names, and emits its record (R62). -/
theorem step_ir {s t : State} {p : Shift} {rest : List Item} (hs : s.stream = .event (.ir p) :: rest)
    (h : step s = .next t) :
    t = { s with stream := rest }.emitted (irName p.bits).toSel p.rangesRaw.reverse
      [⟨p.ss, p.es, .item, .sel (irName p.bits)⟩] := by
  obtain ⟨x, rest', i, hs', hd, hexec⟩ := step_cases h
  obtain ⟨rfl, rfl⟩ : Item.event (.ir p) = x ∧ rest = rest' := by simpa [hs] using hs'
  obtain rfl := eq_instr_of_decode_packet hd
  have hsel := (exec_irOp (irName p.bits) p { s with stream := rest }).symm.trans hexec
  rw [selectRegister_eq] at hsel
  exact (Host.Outcome.next.inj hsel).symm

end Sys2Proof.Machine

open Sys2Proof Sys2Proof.Machine

/-- Settles O22: parity decides between the two classes; the byte read is `d` whatever the parity bit. -/
theorem otherFramesAreDataOrInvalid : Obligations.OtherFramesAreDataOrInvalid := by
  unfold Obligations.OtherFramesAreDataOrInvalid
  intro s dir p par d hp hbits
  have hlen : p.bits.length = 9 := by simp [hbits]
  have hbyte : frameByte p.bits = d := by rw [hbits, frameByte_cons]
  have hok : frameOk p.bits = ((popcount (bin 8 d.toNat) + par.toNat) % 2 == 0) := by
    rw [hbits, frameOk_cons (bin_length ..)]
  refine ⟨fun heven => ?_, fun hodd hbrk hdelay hempty => ?_⟩
  · have hclass : frameClass p.bits = .data := frameClass_of_ok hlen (by simp [hok, heven])
    refine ⟨decode_frame s.sel dir hp hclass, ?_⟩
    rw [exec_pdiData, hbyte]
  · have hclass : frameClass p.bits = .invalid := by
      rw [frameClass_of_not_ok hlen (by simp [hok, hodd]), hbyte, specialOf_of_unassigned hbrk hdelay hempty]
      rfl
    refine ⟨decode_frame s.sel dir hp hclass, ?_⟩
    rw [exec_pdiInvalid, hbyte]

/-- Settles O25: each mux runs the operation its event decodes to, and always answers a next state. -/
theorem shiftDrIsTdiThenTdo : Obligations.ShiftDrIsTdiThenTdo := by
  unfold Obligations.ShiftDrIsTdiThenTdo
  intro s tdi tdo hp hlen
  obtain ⟨u, hu⟩ := exec_next (.shiftDr tdi tdo) s
  obtain ⟨t, htdi, htdo⟩ := exec_shiftDr_eq_next.1 hu
  have hp' : Shift.paired { tdi with bits := tdo } = true := by
    rw [← hp, Shift.paired, hlen]
    rfl
  exact ⟨_, t, _, u, decode_drTdi s.sel tdi hp, htdi, decode_drTdo t.sel _ hp', htdo, hu⟩

/-- Settles O38: the step of an IR event reads the payload's first four bits only. -/
theorem irBitsBehindTheOpcodeAreIgnored : Obligations.IrBitsBehindTheOpcodeAreIgnored := by
  unfold Obligations.IrBitsBehindTheOpcodeAreIgnored
  intro s s' t t' p p' rest rest' hs hs' _ _ hopcode hss hes h h'
  have hname : irName p.bits = irName p'.bits := by
    rw [irName, irName, irOpcode, irOpcode, Config.irOpcodeWidth, hopcode]
  rw [step_ir hs h, step_ir hs' h', hname, hss, hes]
  exact ⟨rfl, rfl⟩

/-- Settles O21: the class of each of the three frames by evaluation. -/
theorem specialCharacterFramesAreNamed : Obligations.SpecialCharacterFramesAreNamed := by
  unfold Obligations.SpecialCharacterFramesAreNamed
  intro s dir p hp
  refine ⟨fun h => ⟨?_, frameStep_failed ..⟩, fun h => ⟨?_, frameStep_failed ..⟩, fun h => ⟨?_, frameStep_failed ..⟩⟩
  · exact decode_frame (c := .brk) s.sel dir hp (h ▸ by decide)
  · exact decode_frame (c := .delay) s.sel dir hp (h ▸ by decide)
  · exact decode_frame (c := .empty) s.sel dir hp (h ▸ by decide)

/-- Settles O24: the name's opcode is looked up as any IR payload is, and gives the name back. -/
theorem selectIsTheIrEventOfItsName : Obligations.SelectIsTheIrEventOfItsName := by
  unfold Obligations.SelectIsTheIrEventOfItsName
  intro s name rangesRaw ss es hlen
  have hp : Shift.paired ⟨name.opcode, rangesRaw, ss, es⟩ = true := by simp [Shift.paired, hlen]
  have hexec := exec_select name rangesRaw ss es s
  refine ⟨⟨_, decode_ir s.sel _ hp, ?_⟩, hexec⟩
  rw [exec_irOp, irName_opcode, hexec]
end

section
/-! PROOFS. What an operation puts out (R36, R48, R50, R60): records of the categories their payloads go with, a warning
about an IDCODE's width only (R82), at most six of an event, all at the end of the sink. -/

namespace Sys2Proof.Machine

/-- A record as R48 and R50 say, a warning only about the device-to-host payload `b` (R82). -/
def RecordOf (b : Option Bits) (r : Record) : Prop :=
  recordOk r = true ∧ (r.cat = .warning → ∃ v, b = some v ∧ r.payload = .malformedShift v.length)

/-- Everything put out from `s` to `t`: records and frame results at the ends of `sink` and `results`, those of the last
event also in `out` and `pdi`. -/
def Outputs (b : Option Bits) (s t : State) : Prop :=
  ∃ rs results, t.sink = s.sink ++ rs ∧ t.results = s.results ++ results ∧ (∀ r ∈ rs, RecordOf b r)
    ∧ t.out <:+ rs ∧ t.out.length ≤ 6 ∧ t.pdi.toList <:+ results

/-! ## Records -/

/-- A record of a category that goes with its payload is never one of the six categories no rule emits. -/
theorem neverEmitted_of_recordOk {r : Record} (h : recordOk r = true) : neverEmitted r.cat = false := by
  obtain ⟨ss, es, cat, payload⟩ := r
  cases payload with
  | parity ok =>
    obtain rfl | rfl : cat = parityCat .toDevice ok ∨ cat = parityCat .toHost ok := by simpa [recordOk] using h
    all_goals cases ok <;> rfl
  | byte d =>
    obtain rfl | rfl : cat = .dataIn ∨ cat = .dataOut := by simpa [recordOk] using h
    all_goals rfl
  | special c =>
    obtain rfl | rfl : cat = .dataProg ∨ cat = .dataDev := by simpa [recordOk] using h
    all_goals rfl
  | malformedShift n =>
    obtain ⟨rfl, -⟩ : cat = .warning ∧ n ≠ 32 := by simpa [recordOk] using h
    rfl
  | _ =>
    obtain rfl := beq_iff_eq.1 h
    rfl

theorem recordOf_selected (b : Option Bits) (ss es : Sample) (name : RegName) :
    RecordOf b ⟨ss, es, .item, .sel name⟩ :=
  ⟨rfl, nofun⟩

theorem recordOf_pdicom (b : Option Bits) (ss es : Sample) : RecordOf b ⟨ss, es, .command, .pdicom⟩ :=
  ⟨rfl, nofun⟩

theorem recordOf_dataRecord (b : Option Bits) (dir : Direction) (ranges : List SampleRange) (d : BitVec 8) :
    RecordOf b (dataRecord dir ranges d) := by
  cases dir <;> exact ⟨rfl, nofun⟩

theorem recordOf_parityRecord (b : Option Bits) (dir : Direction) (ranges : List SampleRange) (ok : Bool) :
    RecordOf b (parityRecord dir ranges ok) := by
  cases dir <;> cases ok <;> exact ⟨rfl, nofun⟩

theorem recordOf_specialRecord (b : Option Bits) (dir : Direction) (ranges : List SampleRange) (c : Special) :
    RecordOf b (specialRecord dir ranges c) := by
  cases dir <;> exact ⟨rfl, nofun⟩

theorem recordOf_bypassRecords (b : Option Bits) (p : Shift) : ∀ r ∈ bypassRecords p, RecordOf b r := by
  rintro r (_ | ⟨_, ⟨⟩⟩)
  exact ⟨rfl, nofun⟩

/-- The records of a frame that fails parity. -/
theorem recordOf_failedFrame (b : Option Bits) (dir : Direction) (ranges : List SampleRange) (d : BitVec 8)
    (c : Special) :
    ∀ r ∈ [dataRecord dir ranges d, parityRecord dir ranges false, specialRecord dir ranges c], RecordOf b r := by
  simp only [List.forall_mem_cons, List.not_mem_nil, IsEmpty.forall_iff, implies_true, and_true]
  exact ⟨recordOf_dataRecord .., recordOf_parityRecord .., recordOf_specialRecord ..⟩

/-- The records of a valid frame. -/
theorem recordOf_validFrame (b : Option Bits) (dir : Direction) (ranges : List SampleRange) (d : BitVec 8) :
    ∀ r ∈ [dataRecord dir ranges d, parityRecord dir ranges true], RecordOf b r := by
  simp only [List.forall_mem_cons, List.not_mem_nil, IsEmpty.forall_iff, implies_true, and_true]
  exact ⟨recordOf_dataRecord .., recordOf_parityRecord ..⟩

/-- The extractor's records (R93, R94): three at most. -/
theorem recordOf_validateAndAnnotate (b : Option Bits) (frame : Bits) (dir : Direction) (ranges : List SampleRange) :
    (∀ r ∈ (validateAndAnnotate frame dir ranges).1, RecordOf b r)
      ∧ (validateAndAnnotate frame dir ranges).1.length ≤ 3 := by
  by_cases hlen : frame.length = 9
  · cases hok : frameOk frame with
    | true =>
      rw [validateAndAnnotate_valid hlen hok]
      exact ⟨recordOf_validFrame _ _ _ _, by simp⟩
    | false =>
      rw [validateAndAnnotate_invalid hlen hok]
      exact ⟨recordOf_failedFrame _ _ _ _ _, by simp⟩
  · rw [validateAndAnnotate_malformed hlen]
    exact ⟨List.forall_mem_nil _, by simp⟩

/-- The IDCODE records (R82, R83): six at most, or a warning about the payload's width. -/
theorem recordOf_idcodeRecords (p : Shift) (ranges : List SampleRange) :
    (∀ r ∈ idcodeRecords p ranges, RecordOf (some p.bits) r) ∧ (idcodeRecords p ranges).length ≤ 6 := by
  by_cases hlen : p.bits.length = 32
  · rw [idcodeRecords_right hlen]
    simp [idcodeWordRecords, spanRecord, RecordOf, recordOk]
  · rw [idcodeRecords_wrong hlen]
    simp [RecordOf, recordOk, hlen]

/-! ## Operations -/

theorem Outputs.ofEmitted {b : Option Bits} {rs : List Record} (s : State) (sel : Sel) (ranges : List SampleRange)
    (hrs : ∀ r ∈ rs, RecordOf b r) (hlen : rs.length ≤ 6) : Outputs b s (s.emitted sel ranges rs) :=
  ⟨rs, [], rfl, (List.append_nil _).symm, hrs, List.suffix_rfl, hlen, List.suffix_rfl⟩

theorem Outputs.ofFramed {b : Option Bits} {rs : List Record} (s : State) (ranges : List SampleRange) (res : PdiResult)
    (hrs : ∀ r ∈ rs, RecordOf b r) (hlen : rs.length ≤ 6) : Outputs b s (s.framed ranges rs res) :=
  ⟨rs, [res], rfl, rfl, hrs, List.suffix_rfl, hlen, List.suffix_rfl⟩

/-- A step that puts out nothing. -/
theorem Outputs.ofQuiet {b : Option Bits} {s t : State} (hsink : t.sink = s.sink) (hres : t.results = s.results)
    (hout : t.out = []) (hpdi : t.pdi = none) : Outputs b s t :=
  ⟨[], [], by simp [hsink], by simp [hres], List.forall_mem_nil _, by simp [hout], by simp [hout], by simp [hpdi]⟩

/-- Two events in sequence: what the first put out stays, the second's outputs are the last. -/
theorem Outputs.trans {b : Option Bits} {s t u : State} (h : Outputs b s t) (h' : Outputs b t u) : Outputs b s u := by
  obtain ⟨rs, results, hsink, hres, hrs, -, -, -⟩ := h
  obtain ⟨rs', results', hsink', hres', hrs', hout', hlen', hpdi'⟩ := h'
  refine ⟨rs ++ rs', results ++ results', by simp [hsink, hsink'], by simp [hres, hres'], ?_,
    List.suffix_append_of_suffix hout', hlen', List.suffix_append_of_suffix hpdi'⟩
  simpa only [List.forall_mem_append] using ⟨hrs, hrs'⟩

theorem outputs_selectRegister (b : Option Bits) (name : RegName) (p : Shift) (s : State) :
    Outputs b s (selectRegister name p s) := by
  rw [selectRegister_eq]
  exact .ofEmitted _ _ _ (List.forall_mem_singleton.2 (recordOf_selected ..)) (by simp)

theorem outputs_dropShift (b : Option Bits) (p : Shift) (s : State) : Outputs b s (dropShift p s) := by
  rw [dropShift_eq]
  exact .ofEmitted _ _ _ (List.forall_mem_nil _) (by simp)

theorem outputs_frameStep {b : Option Bits} {rs : List Record} (dir : Direction) (d : BitVec 8) (ok : Bool) (s : State)
    (hrs : ∀ r ∈ rs, RecordOf b r) (hlen : rs.length ≤ 6) : Outputs b s (frameStep dir rs d ok s) := by
  rw [frameStep_eq]
  exact .ofFramed _ _ _ hrs hlen

/-- The extractor after the command record of the same event, or after none. -/
theorem outputs_handleFrame {b : Option Bits} {rs : List Record} (dir : Direction) (p : Shift) (s : State)
    (hrs : ∀ r ∈ rs, RecordOf b r) (hlen : rs.length ≤ 1) :
    Outputs b s (handleFrame dir p.bits ((s.beginShift p).emit rs)) := by
  obtain ⟨hframe, hthree⟩ := recordOf_validateAndAnnotate b p.bits dir p.rangesRaw.reverse
  rw [handleFrame_beginShift]
  refine .ofFramed _ _ _ (List.forall_mem_append.2 ⟨hrs, hframe⟩) ?_
  rw [List.length_append]
  omega

/-- A DR_TDI operation gives no warning, whatever `sel` selects it. -/
theorem exec_tdiOp_outputs (b : Option Bits) {x : Sel} {p : Shift} {s t : State}
    (h : exec ((tdiOp x).instr p) s = .next t) : Outputs b s t := by
  cases x <;> obtain rfl := Host.Outcome.next.inj h
  case idle | idcode | unknown => exact outputs_dropShift b p s
  case bypass => exact .ofEmitted s .idle p.rangesRaw.reverse (recordOf_bypassRecords b p) (by simp [bypassRecords])
  case pdicom =>
    rw [← State.emit_nil (s.beginShift p)]
    exact outputs_handleFrame .toDevice p s (List.forall_mem_nil _) (by simp)

/-- The payload an IDCODE warning can be about: the device-to-host bits met with IDCODE selected. -/
def idcodeBits (sel : Sel) (v : Bits) : Option Bits :=
  if sel = .idcode then some v else none

/-- A DR_TDO operation gives a warning in IDCODE only. -/
theorem exec_tdoOp_outputs {x : Sel} {p : Shift} {s t : State} (h : exec ((tdoOp x).instr p) s = .next t) :
    Outputs (idcodeBits x p.bits) s t := by
  cases x <;> obtain rfl := Host.Outcome.next.inj h
  case idle | unknown => exact outputs_dropShift _ p s
  case bypass => exact .ofEmitted s .idle p.rangesRaw.reverse (recordOf_bypassRecords _ p) (by simp [bypassRecords])
  case idcode =>
    obtain ⟨hrs, hlen⟩ := recordOf_idcodeRecords p p.rangesRaw.reverse
    exact .ofEmitted s .idle p.rangesRaw.reverse hrs hlen
  case pdicom => exact outputs_handleFrame .toHost p s (List.forall_mem_singleton.2 (recordOf_pdicom ..)) (by simp)

/-- The payload of an operation that an IDCODE warning can be about, the operation met with `sel`. -/
def warnedBits (sel : Sel) : Instr → Option Bits
  | .drTdoIdcode p => some p.bits
  | .shiftDr _ tdo => idcodeBits sel tdo
  | _ => none

/-- Only a DR_TDO event in IDCODE selects away from it by a shift: the DR_TDI event of a SHIFT_DR leaves the answer
whether IDCODE is selected as it was. -/
theorem idcodeBits_of_tdi {p : Shift} {s t : State} (h : exec ((tdiOp s.sel).instr p) s = .next t) (v : Bits) :
    idcodeBits t.sel v = idcodeBits s.sel v := by
  rw [exec_tdiOp_sel h]
  cases s.sel <;> rfl

/-- What every operation puts out. -/
theorem exec_outputs {i : Instr} {s t : State} (h : exec i s = .next t) : Outputs (warnedBits s.sel i) s t := by
  cases i with
  | shiftDr tdi tdo =>
    obtain ⟨u, htdi, htdo⟩ := exec_shiftDr_eq_next.1 h
    have hu := exec_tdoOp_outputs htdo
    rw [idcodeBits_of_tdi htdi] at hu
    exact (exec_tdiOp_outputs _ htdi).trans hu
  | notify | reset =>
    obtain rfl := Host.Outcome.next.inj h
    exact .ofQuiet rfl rfl rfl rfl
  | irIdcode p | irPdicom p | irBypass p | irUnknown p =>
    obtain rfl := Host.Outcome.next.inj h
    exact outputs_selectRegister ..
  | select name rangesRaw ss es =>
    obtain rfl := Host.Outcome.next.inj h
    exact outputs_selectRegister ..
  | drTdiIdle p => exact exec_tdiOp_outputs (x := .idle) _ h
  | drTdiBypass p => exact exec_tdiOp_outputs (x := .bypass) _ h
  | drTdiIdcode p => exact exec_tdiOp_outputs (x := .idcode) _ h
  | drTdiPdicom p => exact exec_tdiOp_outputs (x := .pdicom) _ h
  | drTdiUnknown p => exact exec_tdiOp_outputs (x := .unknown) _ h
  | drTdoIdle p => exact exec_tdoOp_outputs (x := .idle) h
  | drTdoBypass p => exact exec_tdoOp_outputs (x := .bypass) h
  | drTdoIdcode p => exact exec_tdoOp_outputs (x := .idcode) h
  | drTdoPdicom p => exact exec_tdoOp_outputs (x := .pdicom) h
  | drTdoUnknown p => exact exec_tdoOp_outputs (x := .unknown) h
  | pdiMalformed dir p =>
    obtain rfl := Host.Outcome.next.inj h
    exact outputs_frameStep _ _ _ _ (List.forall_mem_nil _) (by simp)
  | pdiData dir p =>
    obtain rfl := Host.Outcome.next.inj h
    exact outputs_frameStep _ _ _ _ (recordOf_validFrame _ _ _ _) (by simp)
  | pdiBreak dir p | pdiDelay dir p | pdiEmpty dir p | pdiInvalid dir p =>
    obtain rfl := Host.Outcome.next.inj h
    exact outputs_frameStep _ _ _ _ (recordOf_failedFrame _ _ _ _ _) (by simp [failedFrameRecords])

/-! ## Steps -/

/-- What every step puts out. -/
theorem step_outputs {s t : State} (h : step s = .next t) :
    ∃ x rest, s.stream = x :: rest ∧ Outputs (warnedBits s.sel (x.instr s.sel)) s t := by
  obtain ⟨x, rest, i, hs, hd, hexec⟩ := step_cases h
  obtain rfl := eq_instr_of_decode_packet hd
  exact ⟨x, rest, hs, exec_outputs (s := { s with stream := rest }) hexec⟩

/-- The invariant of the outputs is kept by whatever is put out. -/
theorem Outputs.keeps {b : Option Bits} {s t : State} (h : Outputs b s t) (hs : s.OutputsOk) :
    t.OutputsOk ∧ s.sink <+: t.sink ∧ s.results <+: t.results := by
  obtain ⟨rs, results, hsink, hres, hrs, hout, hlen, hpdi⟩ := h
  obtain ⟨hrecords, -, -, -⟩ := hs
  rw [State.OutputsOk, hsink, hres]
  refine ⟨⟨?_, List.suffix_append_of_suffix hout, hlen, List.suffix_append_of_suffix hpdi⟩, List.prefix_append ..,
    List.prefix_append ..⟩
  exact List.forall_mem_append.2 ⟨hrecords, fun r hr => (hrs r hr).1⟩

/-- An entry's operation can warn about the entry's own device-to-host bits only, and only in IDCODE (R82). -/
theorem warnedBits_instr {sel : Sel} {x : Item} {v : Bits} (h : warnedBits sel (x.instr sel) = some v) :
    sel = .idcode ∧ x.tdoBits = some v := by
  cases x with
  | event e =>
    cases e with
    | notify => cases h
    | ir p => cases hname : irName p.bits <;> simp [Item.instr, Event.op, hname, irOp, KOp.instr, warnedBits] at h
    | drTdi p => cases sel <;> cases h
    | drTdo p => cases sel <;> cases h; exact ⟨rfl, rfl⟩
  | frame dir p => cases hc : frameClass p.bits <;> simp [Item.instr, hc, FrameClass.instr, warnedBits] at h
  | shiftDr tdi tdo => simpa [Item.instr, warnedBits, idcodeBits, Item.tdoBits] using h
  | _ => cases h

end Sys2Proof.Machine

open Sys2Proof Sys2Proof.Machine

/-- Settles O32: a step only puts out at the ends, and what it puts out is as the invariant says. -/
theorem everyStepKeepsOutputsOk : Obligations.EveryStepKeepsOutputsOk := by
  unfold Obligations.EveryStepKeepsOutputsOk
  intro s t hs h
  obtain ⟨x, rest, -, hout⟩ := step_outputs h
  exact hout.keeps hs

/-- Settles O34: a record of a category that goes with its payload is in none of the six; a warning is about the bits
the entry's operation can warn about. -/
theorem declaredOnlyCategoriesNeverAppear : Obligations.DeclaredOnlyCategoriesNeverAppear := by
  unfold Obligations.DeclaredOnlyCategoriesNeverAppear
  intro s t x rest hs h
  obtain ⟨x', rest', hs', rs, -, hsink, -, hrs, -⟩ := step_outputs h
  obtain ⟨rfl, rfl⟩ : x = x' ∧ rest = rest' := by simpa [hs] using hs'
  refine ⟨rs, hsink, fun r hr => ?_⟩
  obtain ⟨hok, hwarn⟩ := hrs r hr
  refine ⟨neverEmitted_of_recordOk hok, fun hcat => ?_⟩
  obtain ⟨v, hv, hpayload⟩ := hwarn hcat
  obtain ⟨hsel, htdo⟩ := warnedBits_instr hv
  have hlen : v.length ≠ 32 := by simpa [recordOk, hpayload, hcat] using hok
  exact ⟨hsel, v, htdo, hlen, hpayload⟩
end

section
/-! PROOFS. The IDCODE payload (R45, R53, R81, R83): its fields by string position and by value bit, and the bit that is
checked against nothing. -/

namespace Sys2Proof

open Machine

/-- Substrings side by side are a substring (R6). -/
theorem slice_append_slice {a m e : Nat} (b : Bits) (ham : a ≤ m) (hme : m ≤ e) :
    slice a m b ++ slice m e b = slice a e b := by
  have hdrop : b.drop m = (b.drop a).drop (m - a) := by rw [List.drop_drop, Nat.add_sub_cancel' ham]
  rw [slice, slice, slice, hdrop, ← List.take_add]
  congr 1
  omega

/-- The value of a substring is the value bits at its positions, counted from the right (R6, R7). -/
theorem val_slice {a e : Nat} {b : Bits} (hae : a ≤ e) (he : e ≤ b.length) :
    val (slice a e b) = val b / 2 ^ (b.length - e) % 2 ^ (e - a) := by
  have hsplit : slice 0 a b ++ slice a e b ++ slice e b.length b = b := by
    rw [slice_append_slice b (Nat.zero_le a) hae, slice_append_slice b (Nat.zero_le e) he]
    simp [slice]
  have hval := congrArg val hsplit
  have hlt := val_lt (slice e b.length b)
  have hlt' := val_lt (slice a e b)
  rw [val_append, val_append] at hval
  have htail : (slice e b.length b).length = b.length - e := by rw [slice_length]; omega
  have hmid : (slice a e b).length = e - a := by rw [slice_length]; omega
  rw [htail, hmid] at hval
  rw [htail] at hlt
  rw [hmid] at hlt'
  rw [← hval, Nat.mul_comm _ (2 ^ (b.length - e)), Nat.mul_add_div (Nat.two_pow_pos _), Nat.div_eq_of_lt hlt, Nat.add_zero,
    Nat.mul_comm, Nat.mul_add_mod, Nat.mod_eq_of_lt hlt']

/-- A field by string position is the same field of the word by value bit (R7, R45). -/
theorem ofNat_val_slice {a n : Nat} {b : Bits} (hb : b.length = 32) (h : a + n ≤ 32) :
    BitVec.ofNat n (val (slice a (a + n) b)) = (idcodeWord b).extractLsb' (32 - (a + n)) n := by
  have hlt : val b < 2 ^ 32 := hb ▸ val_lt b
  apply BitVec.eq_of_toNat_eq
  rw [val_slice (Nat.le_add_right a n) (hb ▸ h), hb, Nat.add_sub_cancel_left, BitVec.toNat_ofNat, Nat.mod_mod,
    BitVec.extractLsb'_toNat, idcodeWord, BitVec.toNat_ofNat, Nat.mod_eq_of_lt hlt, Nat.shiftRight_eq_div_pow]

/-- The reserved bit is the word's bit 31 (R45). -/
theorem getD_zero_eq_idcodeWord {b : Bits} (hb : b.length = 32) : b.getD 0 false = (idcodeWord b).getLsbD 31 := by
  have hbit := val_testBit_of_lt b 31 (by omega)
  rw [hb] at hbit
  rw [idcodeWord, BitVec.getLsbD_ofNat, hbit]
  rfl

/-- The string of a field is the substring it was taken from. -/
theorem bin_ofNat_val_slice {a n : Nat} {b : Bits} (h : a + n ≤ b.length) :
    bin n (BitVec.ofNat n (val (slice a (a + n) b))).toNat = slice a (a + n) b := by
  refine bin_ofNat_val ?_
  rw [slice_length]
  omega

/-- A string is its first bit and the rest. -/
theorem getD_zero_cons_slice {b : Bits} (h : 0 < b.length) : b.getD 0 false :: slice 1 b.length b = b := by
  cases b with
  | nil => cases h
  | cons x xs => simp [slice]

end Sys2Proof

open Sys2Proof Sys2Proof.Machine

/-- Settles O46: each field is a substring, so a range of value bits, and the substrings side by side are the string. -/
theorem idcodeFieldsAreTheWordsFields : Obligations.IdcodeFieldsAreTheWordsFields := by
  unfold Obligations.IdcodeFieldsAreTheWordsFields
  intro b hb
  constructor
  · rw [idcodeFields, wordFields, getD_zero_eq_idcodeWord hb, ofNat_val_slice (a := 1) (n := 11) hb (by decide),
      ofNat_val_slice (a := 12) (n := 16) hb (by decide), ofNat_val_slice (a := 28) (n := 4) hb (by decide)]
  · rw [assembleIdcode, idcodeFields, bin_ofNat_val_slice (a := 1) (n := 11) (by omega),
      bin_ofNat_val_slice (a := 12) (n := 16) (by omega), bin_ofNat_val_slice (a := 28) (n := 4) (by omega),
      slice_append_slice b (by decide) (by decide), slice_append_slice b (by decide) (by decide)]
    have hcons := getD_zero_cons_slice (b := b) (by omega)
    rwa [hb] at hcons

/-- Settles O39: no field record reads position 0, and no record's span or category reads the bits. -/
theorem reservedBitIsIgnored : Obligations.ReservedBitIsIgnored := by
  unfold Obligations.ReservedBitIsIgnored
  intro p b bs ranges hlen
  have hrecords (x : Bool) : idcodeRecords { p with bits := x :: bs } ranges
      = idcodeWordRecords { p with bits := x :: bs } ranges :=
    idcodeRecords_right (by rw [List.length_cons, hlen]) ranges
  rw [hrecords, hrecords]
  exact ⟨rfl, rfl⟩
end

section
/-! PROOFS. Spans (R51, decision D8): within the range list a span is the least start and the greatest end of the ranges
it selects. -/

namespace Sys2Proof

/-- The ranges of the positions `a` to `e`. -/
def window (ranges : List SampleRange) (a e : Nat) : List SampleRange :=
  (ranges.drop a).take (e + 1 - a)

/-- The hull of ranges folds their starts and their ends apart. -/
theorem foldl_hull (rs : List SampleRange) (r : SampleRange) :
    rs.foldl (fun acc q => (min acc.1 q.1, max acc.2 q.2)) r
      = ((rs.map Prod.fst).foldl min r.1, (rs.map Prod.snd).foldl max r.2) := by
  induction rs generalizing r with
  | nil => rfl
  | cons q qs ih => rw [List.foldl_cons, ih]; rfl

/-- The span of a selection that is not empty: least start, greatest end (R51). -/
theorem span_of_window_ne_nil {ranges : List SampleRange} {a e : Nat} (h : window ranges a e ≠ []) :
    ((window ranges a e).map Prod.fst).min? = some (span ranges a e).1
      ∧ ((window ranges a e).map Prod.snd).max? = some (span ranges a e).2 := by
  have hspan : span ranges a e = match window ranges a e with
    | [] => (0, 0)
    | r :: rs => rs.foldl (fun acc q => (min acc.1 q.1, max acc.2 q.2)) r := rfl
  cases hw : window ranges a e with
  | nil => exact absurd hw h
  | cons r rs =>
    rw [hw] at hspan
    simp only [hspan, foldl_hull, List.map_cons, List.min?_cons', List.max?_cons', and_self]

/-- The selection holds the ranges of its positions, and no others. -/
theorem mem_window {ranges : List SampleRange} {a e : Nat} (h : e < ranges.length) (r : SampleRange) :
    r ∈ window ranges a e ↔ ∃ p, ∃ hp : p < ranges.length, a ≤ p ∧ p ≤ e ∧ ranges[p] = r := by
  rw [window, List.mem_iff_getElem]
  constructor
  · rintro ⟨i, hi, rfl⟩
    rw [List.length_take, List.length_drop] at hi
    exact ⟨a + i, by omega, by omega, by omega, by simp⟩
  · rintro ⟨p, hp, hap, hpe, rfl⟩
    have hpos : a + (p - a) = p := by omega
    exact ⟨p - a, by rw [List.length_take, List.length_drop]; omega, by simp [hpos]⟩

/-- The selection of one position. -/
theorem window_self {ranges : List SampleRange} {e : Nat} (h : e < ranges.length) : window ranges e e = [ranges[e]] := by
  rw [window, Nat.add_sub_cancel_left, List.take_one, List.head?_drop, List.getElem?_eq_getElem h]
  rfl

end Sys2Proof

open Sys2Proof Sys2Proof.Machine

/-- Settles O48: the span's ends are a least and a greatest element of the selection, so bounds that are reached. -/
theorem spanIsEarliestStartLatestEnd : Obligations.SpanIsEarliestStartLatestEnd := by
  unfold Obligations.SpanIsEarliestStartLatestEnd
  intro ranges a e hae h
  have hmem {p : Nat} (hp : p < ranges.length) (hap : a ≤ p) (hpe : p ≤ e) : ranges[p] ∈ window ranges a e :=
    (mem_window h _).2 ⟨p, hp, hap, hpe, rfl⟩
  obtain ⟨hmin, hmax⟩ := span_of_window_ne_nil (List.ne_nil_of_mem (hmem h hae le_rfl))
  obtain ⟨hminMem, hminLe⟩ := List.min?_eq_some_iff.1 hmin
  obtain ⟨hmaxMem, hmaxLe⟩ := List.max?_eq_some_iff.1 hmax
  refine ⟨fun p hp hap hpe => ?_, ?_, ?_, ?_⟩
  · exact ⟨hminLe _ (List.mem_map_of_mem (hmem hp hap hpe)), hmaxLe _ (List.mem_map_of_mem (hmem hp hap hpe))⟩
  · obtain ⟨r, hr, hstart⟩ := List.mem_map.1 hminMem
    obtain ⟨p, hp, hap, hpe, rfl⟩ := (mem_window h r).1 hr
    exact ⟨p, hp, hap, hpe, hstart.symm⟩
  · obtain ⟨r, hr, hend⟩ := List.mem_map.1 hmaxMem
    obtain ⟨p, hp, hap, hpe, rfl⟩ := (mem_window h r).1 hr
    exact ⟨p, hp, hap, hpe, hend.symm⟩
  · rintro rfl
    rw [window_self h] at hmin hmax
    exact Prod.ext (Option.some.inj hmin).symm (Option.some.inj hmax).symm
end

section
/-! PROOFS. The text form (R54, R55): what the reader makes of each word the writer writes, and of a line without bounds
and ranges. -/

namespace Sys2Proof.Machine

/-- What a line's single spaces separate: characters, no space among them. -/
def IsWord (w : List Char) : Prop :=
  w ≠ [] ∧ ' ' ∉ w

/-- Words with single spaces between them are read as they are. -/
theorem wordsOf_intercalate {ws : List (List Char)} (h : ∀ w ∈ ws, IsWord w) (hne : ws ≠ []) :
    wordsOf ([' '].intercalate ws) = ws := by
  rw [wordsOf, List.splitOn_intercalate ' ' (fun w hw => (h w hw).2) hne, List.filter_eq_self]
  intro w hw
  simpa using (h w hw).1

/-! ## Numbers, bounds and ranges -/

/-- A number is written in digits alone. -/
theorem not_mem_natWord {c : Char} (hc : c.isDigit = false) (n : Nat) : c ∉ natWord n := by
  intro hmem
  rw [Nat.isDigit_of_mem_toDigits (by decide) (by decide) hmem] at hc
  cases hc

/-- A written number reads back. -/
theorem readNat_natWord (n : Nat) : readNat (natWord n) = some n := by
  have hdigits : (natWord n).all Char.isDigit = true :=
    List.all_eq_true.2 fun c hc => Nat.isDigit_of_mem_toDigits (by decide) (by decide) hc
  have hne : (natWord n).isEmpty = false := by simp [natWord]
  have hval : (natWord n).foldl (fun acc c => 10 * acc + (c.toNat - '0'.toNat)) 0 = n :=
    Nat.ofDigitChars_toDigits (by decide) (by decide)
  rw [readNat, hdigits, hne, hval]
  rfl

/-- The word of a range (R54). -/
def rangeWord (r : SampleRange) : List Char :=
  natWord r.1 ++ ['-'] ++ natWord r.2

/-- The word of the bounds (R54). -/
def boundsWord (ss es : Sample) : List Char :=
  natWord ss ++ ['.', '.'] ++ natWord es

theorem tailWords_eq (rangesRaw : List SampleRange) (ss es : Sample) :
    tailWords rangesRaw ss es = ['@'] :: boundsWord ss es :: "ranges".toList :: rangesRaw.map rangeWord := rfl

theorem isWord_rangeWord (r : SampleRange) : IsWord (rangeWord r) := by
  have h := not_mem_natWord (c := ' ') rfl
  exact ⟨by simp [rangeWord], by simp [rangeWord, h]⟩

theorem isWord_boundsWord (ss es : Sample) : IsWord (boundsWord ss es) := by
  have h := not_mem_natWord (c := ' ') rfl
  exact ⟨by simp [boundsWord], by simp [boundsWord, h]⟩

/-- A written range reads back: no number holds the separator. -/
theorem readRange_rangeWord (r : SampleRange) : readRange (rangeWord r) = some r := by
  have hsplit : (rangeWord r).splitOn '-' = [natWord r.1, natWord r.2] := by
    have h := not_mem_natWord (c := '-') rfl
    have hjoin : rangeWord r = ['-'].intercalate [natWord r.1, natWord r.2] := by simp [rangeWord]
    rw [hjoin]
    exact List.splitOn_intercalate '-' (by simp [h]) (by simp)
  simp [readRange, hsplit, readNat_natWord]

/-- Written bounds read back. -/
theorem readBounds_boundsWord (ss es : Sample) : readBounds (boundsWord ss es) = some (ss, es) := by
  have hsplit : (boundsWord ss es).splitOn '.' = [natWord ss, [], natWord es] := by
    have h := not_mem_natWord (c := '.') rfl
    have hjoin : boundsWord ss es = ['.'].intercalate [natWord ss, [], natWord es] := by simp [boundsWord]
    rw [hjoin]
    exact List.splitOn_intercalate '.' (by simp [h]) (by simp)
  simp [readBounds, hsplit, readNat_natWord]

/-- Written ranges read back, one by one. -/
theorem mapM_readRange (rangesRaw : List SampleRange) : (rangesRaw.map rangeWord).mapM readRange = some rangesRaw := by
  induction rangesRaw with
  | nil => rfl
  | cons r rs ih => simp [List.mapM_cons, readRange_rangeWord, ih]

/-- A tail in full reads as the payload with its sample numbers. -/
theorem readTail_tailWords (b : Bits) (rangesRaw : List SampleRange) (ss es : Sample) :
    readTail b (tailWords rangesRaw ss es) = some ⟨b, rangesRaw, ss, es⟩ := by
  have hranges : readRanges b.length ("ranges".toList :: rangesRaw.map rangeWord) = some rangesRaw := by
    rw [readRanges, if_pos rfl, mapM_readRange]
  rw [tailWords_eq, readTail, readBounds_boundsWord, Option.bind_some, hranges]
  rfl

theorem isWord_of_mem_tailWords {rangesRaw : List SampleRange} {ss es : Sample} :
    ∀ w ∈ tailWords rangesRaw ss es, IsWord w := by
  simp only [tailWords_eq, List.forall_mem_cons, List.forall_mem_map]
  exact ⟨by simp [IsWord], isWord_boundsWord ss es, by simp [IsWord], fun r _ => isWord_rangeWord r⟩

/-! ## Bits -/

/-- A written bit string has no underscores. -/
theorem filter_map_bitChar (b : Bits) : (b.map bitChar).filter (· != '_') = b.map bitChar := by
  rw [List.filter_eq_self, List.forall_mem_map]
  intro x _
  cases x <;> rfl

theorem bitsWords_of_ne_nil {b : Bits} (h : b ≠ []) : bitsWords b = [b.map bitChar] := by
  simp [bitsWords, h]

theorem isWord_of_mem_bitsWords {b : Bits} : ∀ w ∈ bitsWords b, IsWord w := by
  by_cases hb : b = []
  · simp [bitsWords, hb]
  · rw [bitsWords_of_ne_nil hb, List.forall_mem_singleton]
    exact ⟨by simp [hb], (bitsWord_cases (filter_map_bitChar b)).1⟩

/-- A tail is not taken for bits: its first word is `@`. -/
theorem readShift_tailWords (rangesRaw : List SampleRange) (ss es : Sample) :
    readShift (tailWords rangesRaw ss es) = some ⟨[], rangesRaw, ss, es⟩ :=
  readTail_tailWords [] rangesRaw ss es

/-- A word of bits, then the tail. -/
theorem readShift_bitsWord {b : Bits} {w : List Char} (h : w.filter (· != '_') = b.map bitChar)
    (rest : List (List Char)) : readShift (w :: rest) = readTail b rest := by
  obtain ⟨-, hbits, hread⟩ := bitsWord_cases h
  rw [readShift, if_pos hbits, hread]

/-- A written payload reads back, its bits left out when there are none. -/
theorem readShift_shiftWords (p : Shift) : readShift (shiftWords p) = some p := by
  obtain ⟨b, rangesRaw, ss, es⟩ := p
  by_cases hb : b = []
  · subst hb
    exact readShift_tailWords rangesRaw ss es
  · rw [shiftWords, bitsWords_of_ne_nil hb]
    exact (readShift_bitsWord (filter_map_bitChar b) _).trans (readTail_tailWords b rangesRaw ss es)

/-- Two words of bits, then the tail they share. -/
theorem readShiftDr_bitsWords {b c : Bits} {w v : List Char} (hw : w.filter (· != '_') = b.map bitChar)
    (hv : v.filter (· != '_') = c.map bitChar) (rest : List (List Char)) :
    readShiftDr (w :: v :: rest) = (readTail b rest).map fun p => .shiftDr p c := by
  obtain ⟨-, hbitsw, hreadw⟩ := bitsWord_cases hw
  obtain ⟨-, hbitsv, hreadv⟩ := bitsWord_cases hv
  rw [readShiftDr, if_pos hbitsw, if_pos hbitsv, hreadw, hreadv]

/-- The written operands of a well-formed SHIFT_DR read back: its bit strings are both there or both left out. -/
theorem readShiftDr_words {tdi : Shift} {tdo : Bits} (h : tdo.length = tdi.bits.length) :
    readShiftDr (bitsWords tdi.bits ++ bitsWords tdo ++ tailWords tdi.rangesRaw tdi.ss tdi.es)
      = some (.shiftDr tdi tdo) := by
  obtain ⟨b, rangesRaw, ss, es⟩ := tdi
  by_cases hb : b = []
  · subst hb
    obtain rfl : tdo = [] := List.eq_nil_of_length_eq_zero h
    have htail : readShiftDr (tailWords rangesRaw ss es)
      = (readTail [] (tailWords rangesRaw ss es)).map fun p => .shiftDr p [] := rfl
    exact htail.trans (by rw [readTail_tailWords, Option.map_some])
  · have hc : tdo ≠ [] := by
      rintro rfl
      exact hb (List.eq_nil_of_length_eq_zero h.symm)
    rw [bitsWords_of_ne_nil hb, bitsWords_of_ne_nil hc]
    have hread := readShiftDr_bitsWords (filter_map_bitChar b) (filter_map_bitChar tdo) (tailWords rangesRaw ss es)
    rwa [readTail_tailWords, Option.map_some] at hread

/-! ## Lines -/

theorem readSelectable_selectableWord (name : Selectable) : readSelectable (selectableWord name) = some name := by
  cases name <;> rfl

theorem isWord_selectableWord (name : Selectable) : IsWord (selectableWord name) := by
  cases name <;> exact ⟨by decide, by decide⟩

/-- What follows the first word of a line, by that word (R54, R55). -/
theorem readWords_ir (rest : List (List Char)) :
    readWords ("IR".toList :: rest) = (readShift rest).map fun p => .event (.ir p) := rfl

theorem readWords_drTdi (rest : List (List Char)) :
    readWords ("DR_TDI".toList :: rest) = (readShift rest).map fun p => .event (.drTdi p) := rfl

theorem readWords_drTdo (rest : List (List Char)) :
    readWords ("DR_TDO".toList :: rest) = (readShift rest).map fun p => .event (.drTdo p) := rfl

theorem readWords_shiftDr (rest : List (List Char)) : readWords ("SHIFT_DR".toList :: rest) = readShiftDr rest := rfl

theorem readWords_select (name : Selectable) (rest : List (List Char)) :
    readWords ("SELECT".toList :: selectableWord name :: rest)
      = (readTail name.opcode rest).map fun p => .select name p.rangesRaw p.ss p.es := by
  have hselect : readWords ("SELECT".toList :: selectableWord name :: rest)
    = (readSelectable (selectableWord name)).bind fun name =>
      (readTail name.opcode rest).map fun p => .select name p.rangesRaw p.ss p.es := rfl
  rw [hselect, readSelectable_selectableWord, Option.bind_some]

/-- The words of an entry are words. -/
theorem isWord_of_mem_itemWords {x : Item} {ws : List (List Char)} (h : itemWords x = some ws) :
    ∀ w ∈ ws, IsWord w := by
  have hshift (p : Shift) : ∀ w ∈ shiftWords p, IsWord w :=
    List.forall_mem_append.2 ⟨isWord_of_mem_bitsWords, isWord_of_mem_tailWords⟩
  cases x with
  | event e =>
    cases e with
    | notify =>
      obtain rfl := Option.some.inj h
      simp [IsWord]
    | ir p | drTdi p | drTdo p =>
      obtain rfl := Option.some.inj h
      exact List.forall_mem_cons.2 ⟨by simp [IsWord], hshift p⟩
  | reset =>
    obtain rfl := Option.some.inj h
    simp [IsWord]
  | select name rangesRaw ss es =>
    obtain rfl := Option.some.inj h
    exact List.forall_mem_cons.2 ⟨by simp [IsWord],
      List.forall_mem_cons.2 ⟨isWord_selectableWord name, isWord_of_mem_tailWords⟩⟩
  | shiftDr tdi tdo =>
    obtain rfl := Option.some.inj h
    exact List.forall_mem_cons.2 ⟨by simp [IsWord], List.forall_mem_append.2
      ⟨List.forall_mem_append.2 ⟨isWord_of_mem_bitsWords, isWord_of_mem_bitsWords⟩, isWord_of_mem_tailWords⟩⟩
  | frame dir p => cases h

/-- The words of a well-formed entry read back. -/
theorem readWords_itemWords {x : Item} {ws : List (List Char)} (hwf : x.wf = true) (h : itemWords x = some ws) :
    readWords ws = some x := by
  cases x with
  | event e =>
    cases e with
    | notify => obtain rfl := Option.some.inj h; rfl
    | ir p =>
      obtain rfl := Option.some.inj h
      rw [readWords_ir, readShift_shiftWords, Option.map_some]
    | drTdi p =>
      obtain rfl := Option.some.inj h
      rw [readWords_drTdi, readShift_shiftWords, Option.map_some]
    | drTdo p =>
      obtain rfl := Option.some.inj h
      rw [readWords_drTdo, readShift_shiftWords, Option.map_some]
  | reset => obtain rfl := Option.some.inj h; rfl
  | select name rangesRaw ss es =>
    obtain rfl := Option.some.inj h
    rw [readWords_select, readTail_tailWords, Option.map_some]
  | shiftDr tdi tdo =>
    obtain rfl := Option.some.inj h
    rw [readWords_shiftDr, readShiftDr_words (beq_iff_eq.1 (Bool.and_eq_true_iff.1 hwf).2)]
  | frame dir p => cases h

/-- A line of a first word and more. -/
theorem readLine_word_space {k : List Char} (hk : IsWord k) (v : List Char) :
    readLine (k ++ ' ' :: v) = readWords (k :: wordsOf v) := by
  rw [readLine, wordsOf_word_space hk.2 hk.1]

/-- Bits alone, or nothing, read as the payload with the default sample numbers (R54). -/
theorem readShift_wordsOf_bits {b : Bits} {w : List Char} (h : w.filter (· != '_') = b.map bitChar) :
    readShift (wordsOf w) = some (defaultShift b) := by
  by_cases hw : w = []
  · subst hw
    obtain rfl : b = [] := List.map_eq_nil_iff.1 h.symm
    rfl
  · rw [wordsOf_word (bitsWord_cases h).1 hw, readShift_bitsWord h, readTail_nil]

/-- A line of the first word of a kind of event and of bits alone, or nothing: the event with the default sample
numbers. -/
theorem readLine_bits {k : List Char} {kind : Shift → Event} {b : Bits} {w : List Char} (hk : IsWord k)
    (hkind : ∀ rest, readWords (k :: rest) = (readShift rest).map fun p => .event (kind p))
    (h : w.filter (· != '_') = b.map bitChar) :
    readLine (k ++ ' ' :: w) = some (.event (kind (defaultShift b))) := by
  rw [readLine_word_space hk, hkind, readShift_wordsOf_bits h, Option.map_some]

/-! ## The default sample numbers -/

theorem defaultShift_paired (b : Bits) : (defaultShift b).paired = true := by
  simp [Shift.paired, defaultShift, defaultRanges]

/-- The default range of a string position: the bits are shifted from the right (R54). -/
theorem inStringOrder_defaultShift {b : Bits} {p : Nat} (h : p < b.length) :
    (inStringOrder (defaultShift b).rangesRaw)[p]? = some (10 * (b.length - p), 10 * (b.length - p) + 9) := by
  have hlen : p < (defaultRanges b.length).length := by simpa [defaultRanges] using h
  rw [inStringOrder, defaultShift, List.getElem?_reverse hlen]
  simp only [defaultRanges, List.length_map, List.length_range, List.getElem?_map]
  have hstart : 10 + 10 * (b.length - 1 - p) = 10 * (b.length - p) := by omega
  have hend : 19 + 10 * (b.length - 1 - p) = 10 * (b.length - p) + 9 := by omega
  rw [List.getElem?_range (by omega), Option.map_some, hstart, hend]

theorem defaultBounds_of_ne_nil {b : Bits} (h : b ≠ []) : defaultBounds b.length = (10, 10 * b.length + 9) :=
  if_neg (mt List.eq_nil_of_length_eq_zero h)

end Sys2Proof.Machine

open Sys2Proof Sys2Proof.Machine

/-- Settles O59: a line falls into the words it was written from, and each kind of word reads back. -/
theorem writtenLineReadsBack : Obligations.WrittenLineReadsBack := by
  unfold Obligations.WrittenLineReadsBack
  intro x line hwf h
  obtain ⟨ws, hws, rfl⟩ := Option.map_eq_some_iff.1 h
  have hread := readWords_itemWords hwf hws
  have hne : ws ≠ [] := by
    rintro rfl
    cases hread
  rw [readLine, wordsOf_intercalate (isWord_of_mem_itemWords hws) hne, hread]

/-- Settles O60: the default convention position by position, and a line without a suffix has no word but its bits. -/
theorem defaultSampleNumbers : Obligations.DefaultSampleNumbers := by
  unfold Obligations.DefaultSampleNumbers
  refine ⟨fun b => ⟨defaultShift_paired b, rfl, fun p => inStringOrder_defaultShift, ?_, ?_⟩, ?_, rfl, rfl, rfl, rfl, ?_⟩
  · rintro rfl
    exact ⟨rfl, rfl⟩
  · intro hb
    rw [defaultShift, defaultBounds_of_ne_nil hb]
    exact ⟨rfl, rfl⟩
  · intro b w hw
    refine ⟨?_, ?_, ?_, fun c v hv hwne hvne => ?_⟩
    · exact readLine_bits (by simp [IsWord]) readWords_ir hw
    · exact readLine_bits (by simp [IsWord]) readWords_drTdi hw
    · exact readLine_bits (by simp [IsWord]) readWords_drTdo hw
    · have hline := readLine_word_space (k := "SHIFT_DR".toList) (by simp [IsWord]) (w ++ ' ' :: v)
      rw [wordsOf_word_space (bitsWord_cases hw).1 hwne, wordsOf_word (bitsWord_cases hv).1 hvne, readWords_shiftDr,
        readShiftDr_bitsWords hw hv, readTail_nil, Option.map_some] at hline
      exact hline
  · intro name
    have hline := readLine_word_space (k := "SELECT".toList) (by simp [IsWord]) (selectableWord name)
    rw [wordsOf_word (isWord_selectableWord name).2 (isWord_selectableWord name).1, readWords_select, readTail_nil,
      Option.map_some] at hline
    exact hline
end

section
/-! PROOFS. A step on a well-formed entry (R33, R60, R78): the entry is consumed and its operation completes; and for an
event the step is R60's step function, whose cells are R77's table. -/

namespace Sys2Proof

open Machine

/-! ## Entries and the operations they decode to -/

/-- An entry is the entry of the operation it decodes to. -/
theorem itemOf_instr (sel : Sel) (x : Item) : itemOf (x.instr sel) = x := by
  cases x with
  | event e =>
    cases e with
    | notify => rfl
    | ir p => rw [Item.instr, Event.op]; cases irName p.bits <;> rfl
    | drTdi p => cases sel <;> rfl
    | drTdo p => cases sel <;> rfl
  | frame dir p => rw [Item.instr]; cases frameClass p.bits <;> rfl
  | reset | select | shiftDr => rfl

/-- An operation that asks for a `sel` is decoded under that `sel` only. -/
theorem selFor_instr (sel : Sel) (x : Item) : selFor (x.instr sel) = none ∨ selFor (x.instr sel) = some sel := by
  cases x with
  | event e =>
    cases e with
    | notify => exact .inl rfl
    | ir p => rw [Item.instr, Event.op]; cases irName p.bits <;> exact .inl rfl
    | drTdi p => cases sel <;> exact .inr rfl
    | drTdo p => cases sel <;> exact .inr rfl
  | frame dir p => rw [Item.instr]; cases frameClass p.bits <;> exact .inl rfl
  | reset | select | shiftDr => exact .inl rfl

/-! ## The register an IR payload names -/

namespace Machine

/-- A payload shorter than an opcode meets no row of `IRMAP` either, so its length need not be looked at (R29, D10). -/
theorem irName_eq_irMap (v : Bits) : irName v = (irMap (irOpcode v)).1 := by
  unfold irName
  split
  case isTrue => rfl
  case isFalse hlen =>
    have hne {k : Bits} (hk : k.length = 4) : irOpcode v ≠ k := fun h => hlen (h ▸ hk)
    rw [irMap_of_unassigned (hne rfl) (hne rfl) (hne rfl)]

/-- The converse of `irName_eq_toRegName`. -/
theorem irName_of_slice_eq_opcode {v : Bits} {n : Selectable} (h : slice 0 4 v = n.opcode) :
    irName v = n.toRegName := by
  have hop : irOpcode v = n.opcode := h
  rw [irName_eq_irMap, hop]
  cases n <;> rfl

/-- A payload that begins with none of the three opcodes names UNKNOWN (R66). -/
theorem irName_of_unassigned {v : Bits} (hidcode : slice 0 4 v ≠ [false, false, true, true])
    (hpdicom : slice 0 4 v ≠ [false, true, true, true]) (hbypass : slice 0 4 v ≠ [true, true, true, true]) :
    irName v = .unknown := by
  have hmap : irMap (irOpcode v) = (.unknown, 0) := irMap_of_unassigned hidcode hpdicom hbypass
  rw [irName_eq_irMap, hmap]

/-! ## Steps on well-formed entries -/

/-- A step on a well-formed entry runs the entry's operation, the entry consumed. -/
theorem step_of_wf {s : State} {x : Item} {rest : List Item} (hs : s.stream = x :: rest) (hx : x.wf = true) :
    step s = exec (x.instr s.sel) { s with stream := rest } :=
  step_eq_exec hs (decode_packet s.sel hx)

/-- A step on a well-formed entry is taken, and consumes that entry alone. -/
theorem step_next_of_wf {s : State} {x : Item} {rest : List Item} (hs : s.stream = x :: rest) (hx : x.wf = true) :
    ∃ t, step s = .next t ∧ t.stream = rest := by
  obtain ⟨t, ht⟩ := exec_next (x.instr s.sel) { s with stream := rest }
  exact ⟨t, (step_of_wf hs hx).trans ht, exec_stream ht⟩

/-- A run over well-formed entries consumes them all: it does not stop before the stream ends (R138). -/
theorem run_consumes {xs : List Item} {s : State} (hs : s.stream = xs) (hwf : ∀ x ∈ xs, x.wf = true) :
    ∃ t, run xs.length s = .next t ∧ t.stream = [] := by
  induction xs generalizing s with
  | nil => exact ⟨s, rfl, hs⟩
  | cons x rest ih =>
    obtain ⟨hx, hrest⟩ := List.forall_mem_cons.1 hwf
    obtain ⟨u, hstep, hu⟩ := step_next_of_wf hs hx
    obtain ⟨t, hrun, ht⟩ := ih hu hrest
    exact ⟨t, run_succ_eq_next.2 ⟨u, hstep, hrun⟩, ht⟩

/-! ## The step function of R60 -/

/-- The state after a step that returned `r`: what it returned is also at the ends of `sink` and `results` (R36). -/
def State.afterStep (s : State) (r : StepResult) : State :=
  { s with
    sel := r.sel, ranges := r.ranges, out := r.out, pdi := r.pdi
    sink := s.sink ++ r.out, results := s.results ++ r.pdi.toList }

theorem State.emitted_eq_afterStep (s : State) (sel : Sel) (ranges : List SampleRange) (rs : List Record) :
    s.emitted sel ranges rs = s.afterStep ⟨sel, ranges, rs, none⟩ := by
  simp [State.emitted, State.afterStep]

theorem State.framed_eq_afterStep (s : State) (ranges : List SampleRange) (rs : List Record) (r : PdiResult) :
    s.framed ranges rs r = s.afterStep ⟨s.sel, ranges, rs, some r⟩ := by
  simp [State.framed, State.afterStep]

/-! ### The next state of each operation an event selects -/

theorem exec_notify (s : State) : exec .notify s = .next (s.emitted s.sel s.ranges []) := by
  simp [exec, execNotify, State.beginStep, State.emitted]

/-- Every IR operation: the register, the latch, one record (R62). -/
theorem exec_irOp_eq (name : RegName) (p : Shift) (s : State) :
    exec ((irOp name).instr p) s
      = .next (s.emitted name.toSel p.rangesRaw.reverse [⟨p.ss, p.es, .item, .sel name⟩]) := by
  rw [exec_irOp, selectRegister_eq]

/-- What every dropped shift does (R67, R68, R71, R75, R76). -/
theorem next_dropShift {s : State} {x : Sel} (hsel : s.sel = x) (p : Shift) :
    (.next (dropShift p s) : Outcome) = .next (s.emitted x p.rangesRaw.reverse []) := by
  rw [dropShift_eq, hsel]

theorem exec_drTdiBypass (p : Shift) (s : State) :
    exec (.drTdiBypass p) s
      = .next (s.emitted .idle p.rangesRaw.reverse [⟨p.ss, p.es, .item, .bits p.bits⟩]) := rfl

theorem exec_drTdoBypass (p : Shift) (s : State) :
    exec (.drTdoBypass p) s
      = .next (s.emitted .idle p.rangesRaw.reverse [⟨p.ss, p.es, .item, .bits p.bits⟩]) := rfl

theorem exec_drTdoIdcode (p : Shift) (s : State) :
    exec (.drTdoIdcode p) s
      = .next (s.emitted .idle p.rangesRaw.reverse (idcodeRecords p p.rangesRaw.reverse)) := rfl

/-- DR_TDI.PDICOM is the extractor alone (R73). -/
theorem exec_drTdiPdicom (p : Shift) (s : State) :
    exec (.drTdiPdicom p) s = .next (s.framed p.rangesRaw.reverse
      (validateAndAnnotate p.bits .toDevice p.rangesRaw.reverse).1
      (pdiOf .toDevice (validateAndAnnotate p.bits .toDevice p.rangesRaw.reverse).2)) := by
  have h := handleFrame_beginShift .toDevice p [] s
  rw [State.emit_nil] at h
  exact congrArg Host.Outcome.next h

/-- DR_TDO.PDICOM is the command record, then the extractor (R74). -/
theorem exec_drTdoPdicom (p : Shift) (s : State) :
    exec (.drTdoPdicom p) s = .next (s.framed p.rangesRaw.reverse
      (⟨p.ss, p.es, .command, .pdicom⟩ :: (validateAndAnnotate p.bits .toHost p.rangesRaw.reverse).1)
      (pdiOf .toHost (validateAndAnnotate p.bits .toHost p.rangesRaw.reverse).2)) :=
  congrArg Host.Outcome.next (handleFrame_beginShift .toHost p [⟨p.ss, p.es, .command, .pdicom⟩] s)

/-! ### Operations, steps -/

theorem exec_tdiOp_eq_refStep (p : Shift) (s : State) :
    exec ((tdiOp s.sel).instr p) s = .next (s.afterStep (refStep s.sel s.ranges (.drTdi p))) := by
  cases hsel : s.sel with
  | idle | idcode | unknown => exact (next_dropShift hsel p).trans (congrArg _ (s.emitted_eq_afterStep ..))
  | bypass => exact (exec_drTdiBypass p s).trans (congrArg _ (s.emitted_eq_afterStep ..))
  | pdicom =>
    have h := exec_drTdiPdicom p s
    rw [State.framed_eq_afterStep, hsel] at h
    exact h

theorem exec_tdoOp_eq_refStep (p : Shift) (s : State) :
    exec ((tdoOp s.sel).instr p) s = .next (s.afterStep (refStep s.sel s.ranges (.drTdo p))) := by
  cases hsel : s.sel with
  | idle | unknown => exact (next_dropShift hsel p).trans (congrArg _ (s.emitted_eq_afterStep ..))
  | bypass => exact (exec_drTdoBypass p s).trans (congrArg _ (s.emitted_eq_afterStep ..))
  | idcode => exact (exec_drTdoIdcode p s).trans (congrArg _ (s.emitted_eq_afterStep ..))
  | pdicom =>
    have h := exec_drTdoPdicom p s
    rw [State.framed_eq_afterStep, hsel] at h
    exact h

/-- The operation of an event does what R60's step function returns. -/
theorem exec_op_eq_refStep (e : Event) (s : State) :
    exec ((e.op s.sel).instr e.shift) s = .next (s.afterStep (refStep s.sel s.ranges e)) := by
  cases e with
  | notify => exact (exec_notify s).trans (congrArg _ (s.emitted_eq_afterStep ..))
  | ir p => exact (exec_irOp_eq (irName p.bits) p s).trans (congrArg _ (s.emitted_eq_afterStep ..))
  | drTdi p => exact exec_tdiOp_eq_refStep p s
  | drTdo p => exact exec_tdoOp_eq_refStep p s

/-- The step on a well-formed event, whole: the event is consumed and R60's step function is done. -/
theorem step_event_eq_refStep {s : State} {e : Event} {rest : List Item} (hs : s.stream = .event e :: rest)
    (he : e.wf = true) :
    step s = .next ({ s with stream := rest }.afterStep (refStep s.sel s.ranges e)) :=
  (step_of_wf (x := .event e) hs he).trans (exec_op_eq_refStep e { s with stream := rest })

/-- The same, field by field, but for the step's own outputs. -/
theorem step_event_next {s : State} {e : Event} {rest : List Item} (hs : s.stream = .event e :: rest)
    (he : e.wf = true) :
    ∃ t, step s = .next t ∧ t.stream = rest ∧ t.sel = (refStep s.sel s.ranges e).sel
      ∧ t.sink = s.sink ++ (refStep s.sel s.ranges e).out
      ∧ t.results = s.results ++ (refStep s.sel s.ranges e).pdi.toList :=
  ⟨_, step_event_eq_refStep hs he, rfl, rfl, rfl, rfl⟩

/-! ## The transition table of R77 -/

theorem refStep_sel (sel : Sel) (ranges : List SampleRange) (e : Event) :
    (refStep sel ranges e).sel = tableNextSel sel e := by
  cases e with
  | notify => rfl
  | ir p =>
    simp only [refStep, tableNextSel, irName_eq_irMap, irMap]
    split_ifs <;> rfl
  | drTdi p => cases sel <;> rfl
  | drTdo p => cases sel <;> rfl

/-- The extractor's records are as many as the class of the frame says (R99 (a)). -/
theorem length_validateAndAnnotate (frame : Bits) (dir : Direction) (ranges : List SampleRange) :
    (validateAndAnnotate frame dir ranges).1.length = tableFrameCount frame := by
  by_cases hlen : frame.length = 9
  · cases hok : frameOk frame with
    | true => rw [validateAndAnnotate_valid hlen hok, tableFrameCount, frameClass_of_ok hlen hok]; rfl
    | false =>
      rw [validateAndAnnotate_invalid hlen hok, tableFrameCount, frameClass_of_not_ok hlen hok]
      cases specialOf (frameByte frame) <;> rfl
  · have hclass : frameClass frame = .malformed := if_pos hlen
    rw [validateAndAnnotate_malformed hlen, tableFrameCount, hclass]
    rfl

/-- Six records for an IDCODE of 32 bits, one for any other (R82, R83). -/
theorem length_idcodeRecords (p : Shift) (ranges : List SampleRange) :
    (idcodeRecords p ranges).length = if p.bits.length = 32 then 6 else 1 := by
  split
  case isTrue h => rw [idcodeRecords_right h]; rfl
  case isFalse h => rw [idcodeRecords_wrong h]; rfl

theorem refStep_out_length (sel : Sel) (ranges : List SampleRange) (e : Event) :
    (refStep sel ranges e).out.length = tableCount sel e := by
  cases e with
  | notify | ir p => rfl
  | drTdi p =>
    cases sel with
    | pdicom => exact length_validateAndAnnotate p.bits .toDevice _
    | _ => rfl
  | drTdo p =>
    cases sel with
    | idcode => exact length_idcodeRecords p _
    | pdicom =>
      rw [tableCount, Nat.add_comm, ← length_validateAndAnnotate p.bits .toHost p.rangesRaw.reverse]
      rfl
    | _ => rfl

/-! ## Shifts nobody listens to -/

/-- A DR event met in IDLE or UNKNOWN writes the latch and nothing else (R67, R68, R75, R76). -/
theorem refStep_of_dropped {x : Sel} (hx : x = .idle ∨ x = .unknown) (ranges : List SampleRange) {e : Event}
    (he : e.isDr = true) : refStep x ranges e = ⟨x, e.shift.rangesRaw.reverse, [], none⟩ := by
  cases e with
  | notify | ir p => cases he
  | drTdi p | drTdo p => obtain rfl | rfl := hx <;> rfl

/-- Any number of well-formed DR events leave IDLE or UNKNOWN selected and emit nothing (R121). -/
theorem run_dropped {x : Sel} (hx : x = .idle ∨ x = .unknown) {es : List Event} {s : State} (hsel : s.sel = x)
    (hs : s.stream = es.map Item.event) (hes : ∀ e ∈ es, e.wf = true ∧ e.isDr = true) :
    ∃ t, run es.length s = .next t ∧ t.sel = x ∧ t.sink = s.sink ∧ t.results = s.results := by
  induction es generalizing s with
  | nil => exact ⟨s, rfl, hsel, rfl, rfl⟩
  | cons e rest ih =>
    obtain ⟨⟨hwf, hdr⟩, hrest⟩ := List.forall_mem_cons.1 hes
    obtain ⟨u, hstep, hu, husel, husink, huresults⟩ := step_event_next hs hwf
    rw [hsel, refStep_of_dropped hx _ hdr] at husel husink huresults
    obtain ⟨t, hrun, htsel, hsink, hresults⟩ := ih husel hu hrest
    exact ⟨t, run_succ_eq_next.2 ⟨u, hstep, hrun⟩, htsel, by simp [hsink, husink], by simp [hresults, huresults]⟩

end Machine
end Sys2Proof

open Sys2Proof Sys2Proof.Machine

/-- Settles O2: the operation a well-formed entry decodes to has that entry for its own. -/
theorem everyWellFormedEntryDecodes : Obligations.EveryWellFormedEntryDecodes := by
  unfold Obligations.EveryWellFormedEntryDecodes
  intro sel x hx
  have hd := decode_packet sel hx
  exact ⟨x.instr sel, hd, wf_of_decode hd, itemOf_instr sel x, selFor_instr sel x⟩

/-- Settles O8: only a well-formed entry decodes, and no operation stops. -/
theorem stepIsTakenExactlyOnWellFormedEntries : Obligations.StepIsTakenExactlyOnWellFormedEntries := by
  unfold Obligations.StepIsTakenExactlyOnWellFormedEntries
  intro s
  constructor
  · rintro ⟨t, h⟩
    obtain ⟨x, rest, i, hs, hd, -⟩ := step_cases h
    exact ⟨x, rest, hs, wf_of_decode_packet hd⟩
  · rintro ⟨x, rest, hs, hx⟩
    obtain ⟨t, ht, -⟩ := step_next_of_wf hs hx
    exact ⟨t, ht⟩

/-- Settles O28: the operation of the event does what R60's step function returns. -/
theorem stepIsTheStepFunction : Obligations.StepIsTheStepFunction := by
  unfold Obligations.StepIsTheStepFunction
  intro s e rest hs he
  exact ⟨_, step_event_eq_refStep hs he, rfl, rfl, rfl, rfl⟩

/-- Settles O30: each step consumes one entry, so the run reaches the end of the stream, and there it is refused. -/
theorem everyWellFormedStreamRunsToItsEnd : Obligations.EveryWellFormedStreamRunsToItsEnd := by
  unfold Obligations.EveryWellFormedStreamRunsToItsEnd
  intro s hs
  obtain ⟨t, hrun, ht⟩ := run_consumes rfl hs
  exact ⟨t, hrun, ht, step_refused_of_empty ht⟩

/-- Settles O31: R77's table restates R60's step function, which the step is. -/
theorem stepsFollowTheTransitionTable : Obligations.StepsFollowTheTransitionTable := by
  unfold Obligations.StepsFollowTheTransitionTable
  intro s t e rest hs he h
  obtain rfl := Host.Outcome.next.inj ((step_event_eq_refStep hs he).symm.trans h)
  exact ⟨refStep_sel .., refStep_out_length ..⟩

/-- Settles O43: the IR event selects UNKNOWN, and every DR event after it is dropped. -/
theorem unknownSelectionSilencesDrEvents : Obligations.UnknownSelectionSilencesDrEvents := by
  unfold Obligations.UnknownSelectionSilencesDrEvents
  intro s p es hs hp hname hes
  obtain ⟨u, hstep, hu, husel, husink, huresults⟩ := step_event_next (e := .ir p) hs hp
  rw [refStep, hname] at husel husink huresults
  obtain ⟨t, hrun, hsel, hsink, hresults⟩ := run_dropped (.inr rfl) husel hu hes
  exact ⟨t, run_succ_eq_next.2 ⟨u, hstep, hrun⟩, hsel, hsink.trans husink, by simp [hresults, huresults]⟩
end

section
/-! PROOFS. The dispatcher's operations one by one (R61 to R76): the row of R42's map each is selected by, and its next
state. -/

namespace Sys2Proof

open Machine

/-! ## The rows -/

/-- An event whose operation stands in one row of R42's map is selected by that row, the row of its key. -/
theorem keySelects_of_row {sel : Sel} {e : Event} {op : KOp} {pattern mask : BitVec 10} (he : e.wf = true)
    (hop : e.op sel = op) (hrow : ∀ r ∈ kRows, r.op = op → r = ⟨pattern, mask, op⟩) :
    KeySelects pattern mask sel e (op.instr e.shift) := by
  subst hop
  obtain ⟨r, hr, hhits, hrop⟩ := exists_row_of_lookupKey (lookupKey_event sel e)
  rw [hrow r hr hrop] at hhits
  exact ⟨beq_iff_eq.1 hhits, decode_packet (x := .event e) sel he⟩

/-- The IR operations of the three opcodes have a row each. -/
theorem keySelects_ir {p : Shift} {pattern : BitVec 10} {n : Selectable} (sel : Sel) (hp : p.paired = true)
    (hopcode : slice 0 4 p.bits = n.opcode)
    (hrow : ∀ r ∈ kRows, r.op = irOp n.toRegName → r = ⟨pattern, 0x31F#10, irOp n.toRegName⟩) :
    KeySelects pattern 0x31F#10 sel (.ir p) ((irOp n.toRegName).instr p) :=
  keySelects_of_row (e := .ir p) hp (congrArg irOp (irName_of_slice_eq_opcode hopcode)) hrow

/-- An IR key with `sel` masked out, its opcode bits `x` left. -/
theorem irKey_fields_and_mask (sel : Sel) (x : BitVec 4) :
    (Kind.ir.code ++ sel.code ++ BitVec.ofBool false ++ x) &&& 0x31F#10 = 0x100#10 + x.setWidth 10 := by
  revert x
  cases sel <;> decide

/-- The key of an IR payload with an opcode, `sel` masked out (R42). -/
theorem dispatchKey_ir_and_mask (sel : Sel) {p : Shift} (h : ¬ p.bits.length < 4) :
    dispatchKey sel (.ir p) &&& 0x31F#10 = 0x100#10 + BitVec.ofNat 10 (val (slice 0 4 p.bits)) := by
  have hlt : val (slice 0 4 p.bits) < 2 ^ 4 := by
    have hval := val_lt (slice 0 4 p.bits)
    rwa [slice_opcode_length h] at hval
  have hx : BitVec.ofNat 10 (val (slice 0 4 p.bits)) = (BitVec.ofNat 4 (val (slice 0 4 p.bits))).setWidth 10 := by
    apply BitVec.eq_of_toNat_eq
    simp only [BitVec.toNat_ofNat, BitVec.toNat_setWidth, Nat.mod_eq_of_lt hlt]
  simp only [dispatchKey, Event.kind, Event.short, Event.ir4, h, decide_false, if_false]
  rw [irKey_fields_and_mask, hx]

/-- The key of a short IR payload, `sel` and the opcode bits masked out (R42). -/
theorem dispatchKey_short_ir_and_mask (sel : Sel) {p : Shift} (h : p.bits.length < 4) :
    dispatchKey sel (.ir p) &&& 0x310#10 = 0x110#10 := by
  simp only [dispatchKey, Event.kind, Event.short, Event.ir4, h, decide_true, if_true]
  cases sel <;> decide

/-! ## The IDCODE word -/

/-- Strings side by side are words side by side (R7). -/
theorem ofNat_val_append {m n : Nat} {a b : Bits} (ha : a.length = m) (hb : b.length = n) :
    BitVec.ofNat (m + n) (val (a ++ b)) = BitVec.ofNat m (val a) ++ BitVec.ofNat n (val b) := by
  subst ha hb
  apply BitVec.eq_of_toNat_eq
  have hlt : val (a ++ b) < 2 ^ (a.length + b.length) := List.length_append ▸ val_lt (a ++ b)
  rw [BitVec.toNat_append, BitVec.toNat_ofNat, BitVec.toNat_ofNat, BitVec.toNat_ofNat, Nat.mod_eq_of_lt hlt,
    Nat.mod_eq_of_lt (val_lt a), Nat.mod_eq_of_lt (val_lt b), ← Nat.shiftLeft_add_eq_or_of_lt (val_lt b),
    Nat.shiftLeft_eq, val_append]

/-- The 32-bit word of four fields, most significant field first (R86). -/
def IdcodeFields.word (f : IdcodeFields) : BitVec 32 :=
  BitVec.ofBool f.reserved ++ f.manufacturer ++ f.part ++ f.version

theorem assembleIdcode_length (f : IdcodeFields) : (assembleIdcode f).length = 32 := by
  simp [assembleIdcode]

/-- The string of four fields spells their word (R86). -/
theorem idcodeWord_assembleIdcode (f : IdcodeFields) : idcodeWord (assembleIdcode f) = f.word := by
  have hsplit : assembleIdcode f
      = [f.reserved] ++ bin 11 f.manufacturer.toNat ++ bin 16 f.part.toNat ++ bin 4 f.version.toNat := by
    simp [assembleIdcode]
  have hbit : BitVec.ofNat 1 (val [f.reserved]) = BitVec.ofBool f.reserved := by cases f.reserved <;> rfl
  rw [idcodeWord, hsplit, ofNat_val_append (m := 28) (n := 4) (by simp) (by simp),
    ofNat_val_append (m := 12) (n := 16) (by simp) (by simp), ofNat_val_append (m := 1) (n := 11) (by simp) (by simp),
    ofNat_val_bin, ofNat_val_bin, ofNat_val_bin, hbit, IdcodeFields.word]

/-- The fields are read back from their word (R45). -/
theorem wordFields_word (f : IdcodeFields) : wordFields f.word = f := by
  obtain ⟨r, m, p, v⟩ := f
  simp only [wordFields, IdcodeFields.word, IdcodeFields.mk.injEq]
  refine ⟨?_, ?_, ?_, ?_⟩
  · rw [BitVec.getLsbD_append, if_neg (by decide), BitVec.getLsbD_append, if_neg (by decide), BitVec.getLsbD_append,
      if_neg (by decide)]
    simp
  · rw [BitVec.extractLsb'_append_eq_of_le (by decide), BitVec.extractLsb'_append_eq_of_le (by decide),
      BitVec.extractLsb'_append_eq_of_add_le (by decide), BitVec.extractLsb'_eq_self]
  · rw [BitVec.extractLsb'_append_eq_of_le (by decide), BitVec.extractLsb'_append_eq_of_add_le (by decide),
      BitVec.extractLsb'_eq_self]
  · rw [BitVec.extractLsb'_append_eq_of_add_le (by decide), BitVec.extractLsb'_eq_self]

/-- The fields are read back from their string (R45, R86). -/
theorem idcodeFields_assembleIdcode (f : IdcodeFields) : idcodeFields (assembleIdcode f) = f := by
  obtain ⟨hfields, -⟩ := idcodeFieldsAreTheWordsFields (assembleIdcode f) (assembleIdcode_length f)
  rw [hfields, idcodeWord_assembleIdcode, wordFields_word]

/-! ## The extractor -/

namespace Machine

/-- The extractor on the frame of a parity bit and a byte: whether the ones are even in number decides (R92 to R94). -/
theorem validateAndAnnotate_cons (par : Bool) (d : BitVec 8) (dir : Direction) (ranges : List SampleRange) :
    validateAndAnnotate (par :: bin 8 d.toNat) dir ranges
      = if (popcount (bin 8 d.toNat) + par.toNat) % 2 = 0 then
          ([dataRecord dir ranges d, parityRecord dir ranges true], (d, true))
        else
          ([dataRecord dir ranges d, parityRecord dir ranges false, specialRecord dir ranges (specialOf d)],
            (d, false)) := by
  have hlen : (par :: bin 8 d.toNat).length = 9 := by simp
  have hok := frameOk_cons (par := par) (bin_length 8 d.toNat)
  split
  case isTrue heven =>
    rw [validateAndAnnotate_valid hlen (hok.trans (beq_iff_eq.2 heven)), frameByte_cons]
  case isFalse hodd =>
    rw [validateAndAnnotate_invalid hlen (hok.trans (beq_eq_false_iff_ne.2 hodd)), frameByte_cons]

end Machine
end Sys2Proof

open Sys2Proof Sys2Proof.Machine

/-- Settles O10: a notification's key has one row, and the operation empties the step's outputs only. -/
theorem notifyIsANoOp : Obligations.NotifyIsANoOp := by
  unfold Obligations.NotifyIsANoOp
  intro s
  exact ⟨keySelects_of_row (e := .notify) (op := .notify) rfl rfl (by decide), rfl⟩

/-- Settles O11: each of the three opcodes has one row, and every IR operation selects its register. -/
theorem knownIrOpcodesSelectTheirRegister : Obligations.KnownIrOpcodesSelectTheirRegister := by
  unfold Obligations.KnownIrOpcodesSelectTheirRegister
  intro s p hp
  refine ⟨fun h => ⟨?_, exec_irOp_eq .idcode p s⟩, fun h => ⟨?_, exec_irOp_eq .pdicom p s⟩,
    fun h => ⟨?_, exec_irOp_eq .bypass p s⟩⟩
  · exact keySelects_ir (n := .idcode) s.sel hp h (by decide)
  · exact keySelects_ir (n := .pdicom) s.sel hp h (by decide)
  · exact keySelects_ir (n := .bypass) s.sel hp h (by decide)

/-- Settles O12: the key of a short payload meets the short row, any other key the row of its own opcode bits. -/
theorem otherIrPayloadsSelectUnknown : Obligations.OtherIrPayloadsSelectUnknown := by
  unfold Obligations.OtherIrPayloadsSelectUnknown
  intro s p hp hidcode hpdicom hbypass
  have hd := decode_ir s.sel p hp
  rw [irName_of_unassigned hidcode hpdicom hbypass] at hd
  refine ⟨?_, exec_irOp_eq .unknown p s⟩
  split
  case isTrue hshort => exact ⟨dispatchKey_short_ir_and_mask s.sel hshort, hd⟩
  case isFalse hlong => exact ⟨dispatchKey_ir_and_mask s.sel hlong, hd⟩

/-- Settles O13: each of the five operations has one row, and is a dropped shift. -/
theorem droppedShiftsOnlyWriteTheLatch : Obligations.DroppedShiftsOnlyWriteTheLatch := by
  unfold Obligations.DroppedShiftsOnlyWriteTheLatch
  intro s p hp
  refine ⟨fun h => ⟨⟨?_, next_dropShift h p⟩, ?_, next_dropShift h p⟩, fun h => ⟨?_, next_dropShift h p⟩,
    fun h => ⟨⟨?_, next_dropShift h p⟩, ?_, next_dropShift h p⟩⟩
  · exact keySelects_of_row (e := .drTdi p) hp (congrArg tdiOp h) (by decide)
  · exact keySelects_of_row (e := .drTdo p) hp (congrArg tdoOp h) (by decide)
  · exact keySelects_of_row (e := .drTdi p) hp (congrArg tdiOp h) (by decide)
  · exact keySelects_of_row (e := .drTdi p) hp (congrArg tdiOp h) (by decide)
  · exact keySelects_of_row (e := .drTdo p) hp (congrArg tdoOp h) (by decide)

/-- Settles O14: one row for each direction, and the two operations do the same. -/
theorem bypassShiftIsReportedOnceAndEnds : Obligations.BypassShiftIsReportedOnceAndEnds := by
  unfold Obligations.BypassShiftIsReportedOnceAndEnds
  intro s p hp hsel
  refine ⟨⟨?_, exec_drTdiBypass p s⟩, ?_, exec_drTdoBypass p s⟩
  · exact keySelects_of_row (e := .drTdi p) hp (congrArg tdiOp hsel) (by decide)
  · exact keySelects_of_row (e := .drTdo p) hp (congrArg tdoOp hsel) (by decide)

/-- Settles O15: the string built from four fields is 32 bits long and reads back as the fields and as their word. -/
theorem idcodeShiftReportsItsFields : Obligations.IdcodeShiftReportsItsFields := by
  unfold Obligations.IdcodeShiftReportsItsFields
  intro s p f hsel hp hbits
  have hlen : p.bits.length = 32 := hbits ▸ assembleIdcode_length f
  refine ⟨keySelects_of_row (e := .drTdo p) hp (congrArg tdoOp hsel) (by decide), ?_⟩
  rw [exec_drTdoIdcode, idcodeRecords_right hlen, idcodeWordRecords, hbits, idcodeFields_assembleIdcode,
    idcodeWord_assembleIdcode, IdcodeFields.word]

/-- Settles O17: the extractor's two cases, host to device. -/
theorem pdicomInputFrameIsAnnotated : Obligations.PdicomInputFrameIsAnnotated := by
  unfold Obligations.PdicomInputFrameIsAnnotated
  intro s p par d hsel hp hbits
  refine ⟨keySelects_of_row (e := .drTdi p) hp (congrArg tdiOp hsel) (by decide), ?_⟩
  rw [exec_drTdiPdicom, hbits, validateAndAnnotate_cons]
  split <;> rfl

/-- Settles O18: the command record before the extractor's two cases, device to host. -/
theorem pdicomOutputFrameIsAnnotated : Obligations.PdicomOutputFrameIsAnnotated := by
  unfold Obligations.PdicomOutputFrameIsAnnotated
  intro s p par d hsel hp hbits
  refine ⟨keySelects_of_row (e := .drTdo p) hp (congrArg tdoOp hsel) (by decide), ?_⟩
  rw [exec_drTdoPdicom, hbits, validateAndAnnotate_cons]
  split <;> rfl
end

section
/-! PROOFS. IDCODE reports (R81 to R86, R105 to R108): the construction's value and its reading back, the texts of a
word's fields, and the shift of another width. -/

namespace Sys2Proof

open Machine

/-! ## The construction -/

/-- The value of the string built from four fields, each at the weight of its place (R86). -/
theorem val_assembleIdcode (f : IdcodeFields) :
    val (assembleIdcode f)
      = f.reserved.toNat * 2 ^ 31 + f.manufacturer.toNat * 2 ^ 20 + f.part.toNat * 2 ^ 4 + f.version.toNat := by
  have hfield {n : Nat} (x : BitVec n) : val (bin n x.toNat) = x.toNat := by rw [val_bin, Nat.mod_eq_of_lt x.isLt]
  rw [assembleIdcode, val_cons, val_append, val_append, hfield, hfield, hfield]
  simp only [List.length_append, bin_length]
  omega

/-- The word of a 32-bit string has the string's value: nothing of it is cut off (R81). -/
theorem idcodeWord_toNat {b : Bits} (hb : b.length = 32) : (idcodeWord b).toNat = val b := by
  have hlt : val b < 2 ^ 32 := hb ▸ val_lt b
  rw [idcodeWord, BitVec.toNat_ofNat, Nat.mod_eq_of_lt hlt]

/-- The string R86 writes out, manufacturer 0x01F and part 0x9642, is the construction of those fields. -/
theorem assembleIdcode_known (r : Bool) (v : BitVec 4) :
    assembleIdcode ⟨r, 0x01F#11, 0x9642#16, v⟩
      = [r] ++ [false, false, false, false, false, false, true, true, true, true, true]
        ++ [true, false, false, true, false, true, true, false, false, true, false, false, false, false, true, false]
        ++ bin 4 v.toNat := by
  have hmanufacturer : bin 11 (0x01F#11).toNat
      = [false, false, false, false, false, false, true, true, true, true, true] := by decide
  have hpart : bin 16 (0x9642#16).toNat
      = [true, false, false, true, false, true, true, false, false, true, false, false, false, false, true, false] := by
    decide
  rw [assembleIdcode, hmanufacturer, hpart]
  rfl

namespace Machine

/-! ## The texts -/

/-- A key with a row is named by that row (R84, R105). -/
theorem partName_of_some {p : BitVec 16} {name : String} (h : partLookup p = some name) : partName p = name := by
  rw [partName, h, Option.getD_some]

/-- A key outside the table is named by its number (R84, R105). -/
theorem partName_of_none {p : BitVec 16} (h : partLookup p = none) : partName p = hex p.toNat := by
  rw [partName, h, Option.getD_none]

/-- The one row of `PART_TABLE` the source gives (R23). -/
theorem partName_known : partName 0x9642#16 = "ATXMega64A3U" :=
  partName_of_some List.lookup_cons_self

/-- The command text shows the fields of its word (R108). Stated by hand because Lean's own equation for
`idcodeCmdText` is slow to generate. -/
theorem idcodeCmdText_eq (w : BitVec 32) :
    idcodeCmdText w = "IDCODE: " ++ hex w.toNat ++ " (" ++ manufName (wordFields w).manufacturer ++ ": "
      ++ partName (wordFields w).part ++ "@r" ++ dec (wordFields w).version.toNat ++ ")" := rfl

theorem label_idcodeCmd (w : BitVec 32) : label .command (.idcodeCmd w) = idcodeCmdText w := rfl

/-- The command label of a construction shows the fields it was built from (R86, R108). -/
theorem label_idcodeCmd_assembleIdcode (f : IdcodeFields) :
    label .command (.idcodeCmd (idcodeWord (assembleIdcode f)))
      = "IDCODE: " ++ hex (val (assembleIdcode f)) ++ " (" ++ manufName f.manufacturer ++ ": "
        ++ partName f.part ++ "@r" ++ dec f.version.toNat ++ ")" := by
  have hfields : wordFields (idcodeWord (assembleIdcode f)) = f := by
    rw [idcodeWord_assembleIdcode, wordFields_word]
  rw [label_idcodeCmd, idcodeCmdText_eq, hfields, idcodeWord_toNat (assembleIdcode_length f)]

end Machine
end Sys2Proof

open Sys2Proof Sys2Proof.Machine

/-- Settles O47: the written-out string is the construction of the fields 0x01F and 0x9642, which is read back as any
other is. -/
theorem idcodeInvertsItsConstruction : Obligations.IdcodeInvertsItsConstruction := by
  unfold Obligations.IdcodeInvertsItsConstruction
  refine ⟨fun f => ⟨assembleIdcode_length f, idcodeFields_assembleIdcode f, val_assembleIdcode f⟩, fun r v => ?_⟩
  rw [← assembleIdcode_known, idcodeFields_assembleIdcode]
  exact ⟨rfl, rfl, partName_known⟩

/-- Settles O56: the two texts are `manufName` and `partName` of the fields, and the word shown is the word of those
fields. -/
theorem commandLabelShowsTheFieldTexts : Obligations.CommandLabelShowsTheFieldTexts := by
  unfold Obligations.CommandLabelShowsTheFieldTexts
  intro f
  refine ⟨manufName f.manufacturer, partName f.part, rfl, rfl, rfl, fun h => if_pos h, manufName_of_ne,
    fun h => h ▸ partName_known, fun _ => partName_of_some, partName_of_none,
    label_idcodeCmd_assembleIdcode f⟩

/-- Settles O16: the operation has one row, and the width check comes before any field. -/
theorem wrongWidthIdcodeGivesOneWarning : Obligations.WrongWidthIdcodeGivesOneWarning := by
  unfold Obligations.WrongWidthIdcodeGivesOneWarning
  intro s p hsel hp hlen
  refine ⟨keySelects_of_row (e := .drTdo p) hp (congrArg tdoOp hsel) (by decide), ?_⟩
  rw [exec_drTdoIdcode, idcodeRecords_wrong hlen]
end

section
/-! PROOFS. The frame extractor (R90 to R99): its verdict as a parity of nine bits, when it names a special character,
and the two ways it is reached, as the PDICOM operations and as the operations by frame class. -/

namespace Sys2Proof

/-! ## Counting ones -/

/-- Overwriting one bit changes the count by that bit alone. -/
theorem popcount_set {b : Bits} {i : Nat} (h : i < b.length) (x : Bool) :
    popcount (b.set i x) + b[i].toNat = popcount b + x.toNat := by
  induction b generalizing i with
  | nil => cases h
  | cons y ys ih =>
    cases i with
    | zero =>
      simp only [List.set_cons_zero, List.getElem_cons_zero, popcount_cons]
      omega
    | succ i =>
      have hrest := ih (Nat.lt_of_succ_lt_succ h)
      simp only [List.set_cons_succ, List.getElem_cons_succ, popcount_cons]
      omega

/-- Flipping one bit makes an even count odd and an odd one even. -/
theorem popcount_flip_mod_two {b : Bits} {i : Nat} (h : i < b.length) :
    popcount (b.set i (!b[i])) % 2 = (popcount b + 1) % 2 := by
  have hset := popcount_set h (!b[i])
  have hflip : b[i].toNat + (!b[i]).toNat = 1 := by cases b[i] <;> rfl
  omega

/-- The exclusive-or of a string, from any start, tells whether its ones are odd in number. -/
theorem foldl_xor (b : Bits) (a : Bool) : b.foldl xor a = (a ^^ (popcount b).bodd) := by
  induction b generalizing a with
  | nil => cases a <;> rfl
  | cons x xs ih =>
    have hx : x.toNat.bodd = x := by cases x <;> rfl
    rw [List.foldl_cons, ih, popcount_cons, Nat.bodd_add, hx, Bool.xor_assoc, Bool.xor_comm x]

theorem foldl_xor_eq_false_iff (b : Bits) : b.foldl xor false = false ↔ popcount b % 2 = 0 := by
  rw [foldl_xor, Bool.false_xor, Nat.mod_two_of_bodd]
  cases (popcount b).bodd <;> decide

namespace Machine

/-! ## The verdict -/

/-- Which of the nine bits is the parity bit does not matter to the verdict (R92). -/
theorem frameOk_eq_popcount {frame : Bits} (h : frame.length = 9) : frameOk frame = (popcount frame % 2 == 0) := by
  cases frame with
  | nil => cases h
  | cons par data => rw [frameOk_cons (Nat.succ.inj h), popcount_cons]

theorem frameClass_of_malformed {frame : Bits} (h : frame.length ≠ 9) : frameClass frame = .malformed :=
  if_pos h

/-! ## The records -/

theorem dataRecord_not_special (dir : Direction) (ranges : List SampleRange) (d : BitVec 8) :
    ¬ ∃ c, (dataRecord dir ranges d).payload = .special c := by
  simp [dataRecord, spanRecord]

theorem parityRecord_not_special (dir : Direction) (ranges : List SampleRange) (ok : Bool) :
    ¬ ∃ c, (parityRecord dir ranges ok).payload = .special c := by
  simp [parityRecord, spanRecord]

/-! ## The operations by frame class -/

/-- PDI.MALFORMED: no record, and `(0, false)` (R90). -/
theorem exec_pdiMalformed (dir : Direction) (p : Shift) (s : State) :
    exec (.pdiMalformed dir p) s = .next (s.framed s.ranges [] ⟨dir, 0#8, false⟩) :=
  congrArg Host.Outcome.next (frameStep_eq ..)

/-- A frame that fails parity is named by the label of its byte, in whichever of the four classes it falls (R94). -/
theorem exec_classOfSpecial_instr (dir : Direction) (p : Shift) (s : State) :
    exec ((classOfSpecial (specialOf (frameByte p.bits))).instr dir p) s
      = .next (frameStep dir (failedFrameRecords dir p (frameByte p.bits) (specialOf (frameByte p.bits)))
          (frameByte p.bits) false s) := by
  cases hc : specialOf (frameByte p.bits) with
  | brk => rw [specialOf_eq_brk hc]; rfl
  | delay => rw [specialOf_eq_delay hc]; rfl
  | empty => rw [specialOf_eq_empty hc]; rfl
  | invalid => rfl

/-- The operation of a frame's class does what the extractor returns on the frame's own ranges (R90 to R94). -/
theorem exec_frameClass_instr (dir : Direction) (p : Shift) (s : State) :
    exec ((frameClass p.bits).instr dir p) s
      = .next (s.framed s.ranges (validateAndAnnotate p.bits dir p.rangesRaw.reverse).1
          (pdiOf dir (validateAndAnnotate p.bits dir p.rangesRaw.reverse).2)) := by
  by_cases hlen : p.bits.length = 9
  · cases hok : frameOk p.bits with
    | true =>
      rw [frameClass_of_ok hlen hok, validateAndAnnotate_valid hlen hok]
      exact exec_pdiData dir p s
    | false =>
      rw [frameClass_of_not_ok hlen hok, validateAndAnnotate_invalid hlen hok, exec_classOfSpecial_instr]
      exact frameStep_failed ..
  · rw [frameClass_of_malformed hlen, validateAndAnnotate_malformed hlen]
    exact exec_pdiMalformed dir p s

end Machine
end Sys2Proof

open Sys2Proof Sys2Proof.Machine

/-- Settles O23: a frame decodes to the operation of its class. -/
theorem frameOperationsAreTheExtractor : Obligations.FrameOperationsAreTheExtractor := by
  unfold Obligations.FrameOperationsAreTheExtractor
  intro s dir p hp
  exact ⟨_, decode_frame s.sel dir hp rfl, exec_frameClass_instr dir p s⟩

/-- Settles O49: the first form is R92's definition, the second counts the parity bit in, the third is its fold. -/
theorem parityIsEvenOverNineBits : Obligations.ParityIsEvenOverNineBits := by
  unfold Obligations.ParityIsEvenOverNineBits
  intro par data hdata
  have hall : frameOk (par :: data) = true ↔ popcount (par :: data) % 2 = 0 := by
    rw [frameOk_eq_popcount (by simp [hdata]), beq_iff_eq]
  exact ⟨by rw [hall, popcount_cons], hall, hall.trans (foldl_xor_eq_false_iff _).symm⟩

/-- Settles O50: the verdict is a parity of ones, and a flipped bit makes one more or one fewer. -/
theorem oneFlippedBitFlipsParity : Obligations.OneFlippedBitFlipsParity := by
  unfold Obligations.OneFlippedBitFlipsParity
  intro frame i hlen hi
  have hflip := popcount_flip_mod_two hi
  rw [frameOk_eq_popcount ((List.length_set ..).trans hlen), frameOk_eq_popcount hlen, hflip, Bool.eq_iff_iff]
  simp only [beq_iff_eq, Bool.not_eq_true', beq_eq_false_iff_ne]
  omega

/-- Settles O51: the sum is even exactly when the parity bit is the parity of the byte's ones. -/
theorem eachByteHasOneValidParityBit : Obligations.EachByteHasOneValidParityBit := by
  unfold Obligations.EachByteHasOneValidParityBit
  refine ⟨fun d par => ⟨?_, frameByte_cons par d⟩, fun frame hlen => frame_eq_cons hlen⟩
  have hbit := Bool.toNat_le par
  rw [frameOk_cons (bin_length ..), Bool.eq_iff_iff, beq_iff_eq, beq_iff_eq]
  omega

/-- Settles O52: of the extractor's three outcomes only the parity failure has the record, at its end. -/
theorem specialRecordExactlyOnParityFailure : Obligations.SpecialRecordExactlyOnParityFailure := by
  unfold Obligations.SpecialRecordExactlyOnParityFailure
  intro frame dir ranges
  constructor
  · by_cases hlen : frame.length = 9
    · cases hok : frameOk frame with
      | true =>
        simp [validateAndAnnotate_valid hlen hok, dataRecord_not_special, parityRecord_not_special]
      | false =>
        rw [validateAndAnnotate_invalid hlen hok]
        exact iff_of_true ⟨specialRecord dir ranges (specialOf (frameByte frame)), by simp, _, rfl⟩ ⟨hlen, rfl⟩
    · simp [validateAndAnnotate_malformed hlen, hlen]
  · intro hlen hok
    rw [validateAndAnnotate_invalid hlen hok]
    exact ⟨rfl, rfl⟩

/-- Settles O19: both operations have one row, and the extractor gives nothing for such a length. -/
theorem malformedPdicomFrameIsDropped : Obligations.MalformedPdicomFrameIsDropped := by
  unfold Obligations.MalformedPdicomFrameIsDropped
  intro s p hsel hp hlen
  refine ⟨⟨keySelects_of_row (e := .drTdi p) hp (congrArg tdiOp hsel) (by decide), ?_⟩,
    keySelects_of_row (e := .drTdo p) hp (congrArg tdoOp hsel) (by decide), ?_⟩
  · rw [exec_drTdiPdicom, validateAndAnnotate_malformed hlen]
    rfl
  · rw [exec_drTdoPdicom, validateAndAnnotate_malformed hlen]
    rfl

/-- Settles O20: the length alone makes the class, and the operation emits nothing. -/
theorem malformedFrameGivesNothing : Obligations.MalformedFrameGivesNothing := by
  unfold Obligations.MalformedFrameGivesNothing
  intro s dir p hp hlen
  exact ⟨decode_frame s.sel dir hp (frameClass_of_malformed hlen), exec_pdiMalformed dir p s⟩
end

section
/-! PROOFS. The conditions (R120 to R129): when each is met, which exclude each other, and what the step of an event
shows of them. Five of the seven can be read off the payloads of the step's records. -/

namespace Sys2Proof.Machine

/-! ## The lists of R129 -/

theorem idcodeConditions_wrong {b : Bits} (h : b.length ≠ 32) : idcodeConditions b = [.malformedShift] :=
  if_pos h

theorem idcodeConditions_right {b : Bits} (h : b.length = 32) :
    idcodeConditions b = (if (idcodeFields b).manufacturer = 0x01F#11 then [] else [.manufUnknown])
      ++ (if (partLookup (idcodeFields b).part).isSome then [] else [.partUnknown]) :=
  if_neg (not_not_intro h)

theorem frameConditions_malformed {frame : Bits} (h : frame.length ≠ 9) : frameConditions frame = [.pdiMalformed] :=
  if_pos h

theorem frameConditions_nine {frame : Bits} (h : frame.length = 9) :
    frameConditions frame = if frameOk frame then [] else [.parity] :=
  if_neg (not_not_intro h)

/-- R129 (3), (4): the width first, then each name by itself. -/
theorem mem_idcodeConditions {c : Condition} {b : Bits} :
    c ∈ idcodeConditions b ↔ c = .malformedShift ∧ b.length ≠ 32
      ∨ b.length = 32 ∧ (c = .manufUnknown ∧ (idcodeFields b).manufacturer ≠ 0x01F#11
          ∨ c = .partUnknown ∧ partLookup (idcodeFields b).part = none) := by
  by_cases h : b.length = 32
  · simp [idcodeConditions_right h, h, and_comm]
  · simp [idcodeConditions_wrong h, h]

/-- R129 (2): the length first, then the parity. -/
theorem mem_frameConditions {c : Condition} {frame : Bits} :
    c ∈ frameConditions frame ↔ c = .pdiMalformed ∧ frame.length ≠ 9
      ∨ c = .parity ∧ frame.length = 9 ∧ frameOk frame = false := by
  by_cases h : frame.length = 9
  · simp [frameConditions_nine h, h, and_comm]
  · simp [frameConditions_malformed h, h]

/-! ## When a condition is met -/

/-- R129 (1): kind and `sel` choose first which of the conditions can be met. -/
theorem mem_conditions {c : Condition} {sel : Sel} {e : Event} :
    c ∈ conditions sel e ↔
      c = .ignored
        ∧ (e = .notify ∨ (e.isDr = true ∧ (sel = .idle ∨ sel = .unknown)) ∨ (e.kind = .drTdi ∧ sel = .idcode))
      ∨ c = .irUnknown ∧ e.kind = .ir ∧ irName e.shift.bits = .unknown
      ∨ c ∈ frameConditions e.shift.bits ∧ sel = .pdicom ∧ e.isDr = true
      ∨ c ∈ idcodeConditions e.shift.bits ∧ sel = .idcode ∧ e.kind = .drTdo := by
  cases e with
  | notify => simp [conditions, Event.isDr, Event.kind]
  | ir p => by_cases hname : irName p.bits = .unknown <;> simp [conditions, Event.isDr, Event.kind, Event.shift, hname]
  | drTdi p | drTdo p => cases sel <;> simp [conditions, Event.isDr, Event.kind, Event.shift]

/-- X_IGNORED (R127). -/
theorem ignored_mem_conditions {sel : Sel} {e : Event} :
    .ignored ∈ conditions sel e ↔
      e = .notify ∨ (e.isDr = true ∧ (sel = .idle ∨ sel = .unknown)) ∨ (e.kind = .drTdi ∧ sel = .idcode) := by
  simp [mem_conditions, mem_frameConditions, mem_idcodeConditions]

/-- X_PDI_MALFORMED (R124). -/
theorem pdiMalformed_mem_conditions {sel : Sel} {e : Event} :
    .pdiMalformed ∈ conditions sel e ↔ sel = .pdicom ∧ e.isDr = true ∧ e.shift.bits.length ≠ 9 := by
  simp [mem_conditions, mem_frameConditions, mem_idcodeConditions, and_comm, and_assoc]

/-- X_PARITY (R125). -/
theorem parity_mem_conditions {sel : Sel} {e : Event} :
    .parity ∈ conditions sel e ↔
      sel = .pdicom ∧ e.isDr = true ∧ e.shift.bits.length = 9 ∧ frameOk e.shift.bits = false := by
  simp [mem_conditions, mem_frameConditions, mem_idcodeConditions, and_comm, and_assoc]

/-- X_MALFORMED_SHIFT (R126). -/
theorem malformedShift_mem_conditions {sel : Sel} {e : Event} :
    .malformedShift ∈ conditions sel e ↔ sel = .idcode ∧ e.kind = .drTdo ∧ e.shift.bits.length ≠ 32 := by
  simp [mem_conditions, mem_frameConditions, mem_idcodeConditions, and_comm, and_assoc]

/-- A name is looked up only of an IDCODE of 32 bits (R122, R123, R129 (3)). -/
theorem idcode_of_name_mem_conditions {sel : Sel} {e : Event}
    (h : .manufUnknown ∈ conditions sel e ∨ .partUnknown ∈ conditions sel e) :
    e.shift.bits.length = 32 ∧ sel = .idcode ∧ e.kind = .drTdo := by
  simp only [mem_conditions, mem_frameConditions, mem_idcodeConditions, reduceCtorEq, false_and, false_or, true_and,
    or_false] at h
  obtain ⟨⟨hlen, -⟩, hsel, hkind⟩ | ⟨⟨hlen, -⟩, hsel, hkind⟩ := h <;>
    exact ⟨hlen, hsel, hkind⟩

/-! ## Exclusion -/

theorem length_frameConditions_le (frame : Bits) : (frameConditions frame).length ≤ 1 := by
  unfold frameConditions
  split_ifs <;> simp

theorem idcodeConditions_exclusive (b : Bits) :
    (idcodeConditions b).length ≤ 1 ∨ idcodeConditions b = [.manufUnknown, .partUnknown] := by
  unfold idcodeConditions
  split_ifs <;> simp

/-- R129: at most one condition, but for the two names. -/
theorem conditions_exclusive (sel : Sel) (e : Event) :
    (conditions sel e).length ≤ 1 ∨ conditions sel e = [.manufUnknown, .partUnknown] := by
  cases e with
  | notify => exact .inl le_rfl
  | ir p =>
    by_cases hname : irName p.bits = .unknown <;> simp [conditions, hname]
  | drTdi p =>
    cases sel with
    | pdicom => exact .inl (length_frameConditions_le p.bits)
    | _ => simp [conditions]
  | drTdo p =>
    cases sel with
    | idcode => exact idcodeConditions_exclusive p.bits
    | pdicom => exact .inl (length_frameConditions_le p.bits)
    | _ => simp [conditions]

/-- Any condition but the two names is met alone. -/
theorem conditions_eq_singleton {c : Condition} {sel : Sel} {e : Event} (hmanuf : c ≠ .manufUnknown)
    (hpart : c ≠ .partUnknown) (h : c ∈ conditions sel e) : conditions sel e = [c] := by
  obtain hlen | heq := conditions_exclusive sel e
  · obtain ⟨a, ha⟩ := List.length_eq_one_iff.1 (le_antisymm hlen (List.length_pos_of_mem h))
    rw [ha] at h ⊢
    rw [List.mem_singleton.1 h]
  · simp [heq, hmanuf, hpart] at h

/-! ## What the records show -/

/-- The condition a record's payload tells of (R121 to R123, R125, R126). -/
def shownCondition : Payload → Option Condition
  | .sel name => if name = .unknown then some .irUnknown else none
  | .manuf m => if m = 0x01F#11 then none else some .manufUnknown
  | .part p => if (partLookup p).isSome then none else some .partUnknown
  | .parity ok => if ok then none else some .parity
  | .malformedShift _ => some .malformedShift
  | _ => none

/-- The conditions that records tell of: all but X_PDI_MALFORMED and X_IGNORED, which leave none of their own. -/
def Condition.isShown : Condition → Bool
  | .pdiMalformed | .ignored => false
  | _ => true

/-- The conditions that a list of records tells of, in order. -/
def shownConditions (rs : List Record) : List Condition :=
  rs.filterMap fun r => shownCondition r.payload

theorem mem_shownConditions {c : Condition} {rs : List Record} :
    c ∈ shownConditions rs ↔ ∃ r ∈ rs, shownCondition r.payload = some c :=
  List.mem_filterMap

theorem shownCondition_eq_irUnknown {x : Payload} : shownCondition x = some .irUnknown ↔ x = .sel .unknown := by
  cases x <;> simp [shownCondition]

theorem shownCondition_eq_manufUnknown {x : Payload} :
    shownCondition x = some .manufUnknown ↔ ∃ m, m ≠ 0x01F#11 ∧ x = .manuf m := by
  cases x <;> simp [shownCondition]

theorem shownCondition_eq_partUnknown {x : Payload} :
    shownCondition x = some .partUnknown ↔ ∃ p, partLookup p = none ∧ x = .part p := by
  cases x <;> simp [shownCondition]

theorem shownCondition_eq_parity {x : Payload} : shownCondition x = some .parity ↔ x = .parity false := by
  cases x <;> simp [shownCondition]

theorem shownConditions_idcodeRecords (p : Shift) (ranges : List SampleRange) :
    shownConditions (idcodeRecords p ranges) = (idcodeConditions p.bits).filter Condition.isShown := by
  by_cases hlen : p.bits.length = 32
  · rw [idcodeRecords_right hlen, idcodeConditions_right hlen]
    split_ifs with hmanuf hpart hpart <;>
      simp [shownConditions, idcodeWordRecords, spanRecord, shownCondition, List.filter_cons, Condition.isShown,
        hmanuf, hpart]
  · rw [idcodeRecords_wrong hlen, idcodeConditions_wrong hlen]
    rfl

theorem shownConditions_validateAndAnnotate (frame : Bits) (dir : Direction) (ranges : List SampleRange) :
    shownConditions (validateAndAnnotate frame dir ranges).1 = (frameConditions frame).filter Condition.isShown := by
  by_cases hlen : frame.length = 9
  · rw [frameConditions_nine hlen]
    cases hok : frameOk frame with
    | true => rw [validateAndAnnotate_valid hlen hok]; rfl
    | false => rw [validateAndAnnotate_invalid hlen hok]; rfl
  · rw [validateAndAnnotate_malformed hlen, frameConditions_malformed hlen]
    rfl

/-- The records of R60's step function tell of the conditions of the step, of each once and in their order. -/
theorem shownConditions_refStep (sel : Sel) (ranges : List SampleRange) (e : Event) :
    shownConditions (refStep sel ranges e).out = (conditions sel e).filter Condition.isShown := by
  cases e with
  | notify => rfl
  | ir p =>
    rw [refStep, conditions]
    cases irName p.bits <;> rfl
  | drTdi p =>
    cases sel with
    | pdicom => exact shownConditions_validateAndAnnotate p.bits .toDevice p.rangesRaw.reverse
    | _ => rfl
  | drTdo p =>
    cases sel with
    | idcode => exact shownConditions_idcodeRecords p p.rangesRaw.reverse
    | pdicom => exact shownConditions_validateAndAnnotate p.bits .toHost p.rangesRaw.reverse
    | _ => rfl

/-- A condition that records tell of is met exactly when one of the step's records tells of it. -/
theorem mem_conditions_iff_shown {c : Condition} (hc : c.isShown = true) (sel : Sel) (ranges : List SampleRange)
    (e : Event) :
    c ∈ conditions sel e ↔ ∃ r ∈ (refStep sel ranges e).out, shownCondition r.payload = some c := by
  rw [← mem_shownConditions, shownConditions_refStep, List.mem_filter, and_iff_left hc]

/-! ## The step under a condition -/

/-- X_IGNORED: `sel` stays and nothing is recorded (R127). -/
theorem refStep_of_ignored {sel : Sel} {e : Event} (h : .ignored ∈ conditions sel e) (ranges : List SampleRange) :
    (refStep sel ranges e).sel = sel ∧ (refStep sel ranges e).out = [] := by
  obtain rfl | ⟨hdr, hsel⟩ | ⟨hkind, rfl⟩ := ignored_mem_conditions.1 h
  · exact ⟨rfl, rfl⟩
  · rw [refStep_of_dropped hsel ranges hdr]
    exact ⟨rfl, rfl⟩
  · cases e <;> cases hkind
    exact ⟨rfl, rfl⟩

/-- A DR event in PDICOM is the extractor on the ranges just latched, device to host after the command record (R73,
R74). -/
theorem refStep_pdicom {e : Event} (he : e.isDr = true) (ranges : List SampleRange) :
    refStep .pdicom ranges e = ⟨.pdicom, e.shift.rangesRaw.reverse,
      (if e.kind = .drTdo then [⟨e.shift.ss, e.shift.es, .command, .pdicom⟩] else [])
        ++ (validateAndAnnotate e.shift.bits e.direction e.shift.rangesRaw.reverse).1,
      some (pdiOf e.direction (validateAndAnnotate e.shift.bits e.direction e.shift.rangesRaw.reverse).2)⟩ := by
  cases e with
  | notify | ir p => cases he
  | drTdi p | drTdo p => rfl

/-- X_PDI_MALFORMED: the pair of R90 and no record of the extractor's (R124; decisions D15, D16). -/
theorem refStep_of_pdiMalformed {sel : Sel} {e : Event} (h : .pdiMalformed ∈ conditions sel e)
    (ranges : List SampleRange) :
    (refStep sel ranges e).pdi = some ⟨e.direction, 0#8, false⟩
      ∧ (refStep sel ranges e).out
        = if e.kind = .drTdo then [⟨e.shift.ss, e.shift.es, .command, .pdicom⟩] else [] := by
  obtain ⟨rfl, hdr, hlen⟩ := pdiMalformed_mem_conditions.1 h
  rw [refStep_pdicom hdr, validateAndAnnotate_malformed hlen]
  exact ⟨rfl, List.append_nil _⟩

/-- X_PARITY: a failed result, the parity record and the special-character record of its byte (R125; decision D14). -/
theorem refStep_of_parity {sel : Sel} {e : Event} (h : .parity ∈ conditions sel e) (ranges : List SampleRange) :
    ∃ d, (refStep sel ranges e).pdi = some ⟨e.direction, d, false⟩
      ∧ parityRecord e.direction (refStep sel ranges e).ranges false ∈ (refStep sel ranges e).out
      ∧ specialRecord e.direction (refStep sel ranges e).ranges (specialOf d) ∈ (refStep sel ranges e).out := by
  obtain ⟨rfl, hdr, hlen, hok⟩ := parity_mem_conditions.1 h
  rw [refStep_pdicom hdr, validateAndAnnotate_invalid hlen hok]
  exact ⟨frameByte e.shift.bits, rfl, by simp, by simp⟩

/-- X_MALFORMED_SHIFT: the one warning, about the payload's width (R126; decision D11). -/
theorem malformedShift_iff_refStep_out (sel : Sel) (ranges : List SampleRange) (e : Event) :
    .malformedShift ∈ conditions sel e ↔
      (refStep sel ranges e).out = [⟨e.shift.ss, e.shift.es, .warning, .malformedShift e.shift.bits.length⟩] := by
  constructor
  · intro h
    obtain ⟨rfl, hkind, hlen⟩ := malformedShift_mem_conditions.1 h
    cases e <;> cases hkind
    exact idcodeRecords_wrong hlen _
  · intro hout
    rw [mem_conditions_iff_shown rfl sel ranges e, hout]
    exact ⟨_, List.mem_singleton_self _, rfl⟩

/-- The state after a step on an event that is taken: the event was well formed, so it is R60's step function. -/
theorem eq_afterStep_of_step {s t : State} {e : Event} {rest : List Item} (hs : s.stream = .event e :: rest)
    (h : step s = .next t) : t = { s with stream := rest }.afterStep (refStep s.sel s.ranges e) := by
  obtain ⟨x, rest', i, hs', hd, -⟩ := step_cases h
  obtain ⟨rfl, rfl⟩ : Item.event e = x ∧ rest = rest' := by simpa [hs] using hs'
  exact Host.Outcome.next.inj (h.symm.trans (step_event_eq_refStep hs (wf_of_decode_packet hd)))

end Sys2Proof.Machine

open Sys2Proof Sys2Proof.Machine

/-- Settles O58: the lists of R129 clause by clause; then the step is R60's step function, whose records tell of the
conditions. -/
theorem conditionsExcludeEachOther : Obligations.ConditionsExcludeEachOther := by
  unfold Obligations.ConditionsExcludeEachOther
  constructor
  · intro sel e
    refine ⟨conditions_exclusive sel e, fun h => ?_, idcode_of_name_mem_conditions, pdiMalformed_mem_conditions,
      malformedShift_mem_conditions⟩
    obtain ⟨hsel, -, hlen, -⟩ := parity_mem_conditions.1 h
    exact ⟨hlen, hsel⟩
  · intro s t e rest hs h
    obtain rfl := eq_afterStep_of_step hs h
    simp only [← shownCondition_eq_irUnknown, ← shownCondition_eq_manufUnknown, ← shownCondition_eq_partUnknown,
      ← shownCondition_eq_parity]
    exact ⟨mem_conditions_iff_shown rfl .., mem_conditions_iff_shown rfl .., mem_conditions_iff_shown rfl ..,
      fun hc => refStep_of_pdiMalformed hc _, mem_conditions_iff_shown rfl .., fun hc => refStep_of_parity hc _,
      malformedShift_iff_refStep_out ..⟩

/-- Settles O57: X_IGNORED is no name condition, so it is met alone, and R60's step function records nothing then. -/
theorem ignoredStepsRecordNothing : Obligations.IgnoredStepsRecordNothing := by
  unfold Obligations.IgnoredStepsRecordNothing
  intro s t e rest hs h
  obtain rfl := eq_afterStep_of_step hs h
  refine ⟨ignored_mem_conditions, fun hc => ?_⟩
  obtain ⟨hsel, hout⟩ := refStep_of_ignored hc s.ranges
  exact ⟨conditions_eq_singleton nofun nofun hc, hout, by simp [State.afterStep, hout], hsel⟩
end

section
/-! PROOFS. Reset (R135, R136) and runs over a sequence of events (R138 to R143, R150): a run over well-formed events
is the run of R60's step function, so what a sequence of events does is proved of that run alone. -/

namespace Sys2Proof.Machine

/-! ## A run is the run of R60's step function -/

/-- A run over well-formed events consumes them all and does what `refRun` returns (R150). -/
theorem run_events {s : State} {es : List Event} (hs : s.stream = es.map Item.event) (hes : ∀ e ∈ es, e.wf = true) :
    ∃ t, run es.length s = .next t ∧ t.stream = []
      ∧ t.sel = (refRun s.sel s.ranges es).1 ∧ t.ranges = (refRun s.sel s.ranges es).2.1
      ∧ t.sink = s.sink ++ (refRun s.sel s.ranges es).2.2.1
      ∧ t.results = s.results ++ (refRun s.sel s.ranges es).2.2.2 := by
  induction es generalizing s with
  | nil => exact ⟨s, rfl, hs, rfl, rfl, (List.append_nil _).symm, (List.append_nil _).symm⟩
  | cons e rest ih =>
    obtain ⟨he, hrest⟩ := List.forall_mem_cons.1 hes
    have hstep := step_event_eq_refStep hs he
    obtain ⟨t, hrun, hend, hsel, hranges, hsink, hresults⟩ :=
      ih (s := { s with stream := rest.map Item.event }.afterStep (refStep s.sel s.ranges e)) rfl hrest
    exact ⟨t, run_succ_eq_next.2 ⟨_, hstep, hrun⟩, hend, hsel, hranges, hsink.trans (List.append_assoc ..),
      hresults.trans (List.append_assoc ..)⟩

/-- What `refRun` returns is what the run over the same events adds. -/
theorem run_of_refRun_eq {s : State} {es : List Event} {x : Sel} {ranges : List SampleRange} {rs : List Record}
    {results : List PdiResult} (hs : s.stream = es.map Item.event) (hes : ∀ e ∈ es, e.wf = true)
    (href : refRun s.sel s.ranges es = (x, ranges, rs, results)) :
    ∃ t, run es.length s = .next t ∧ t.sel = x ∧ t.sink = s.sink ++ rs ∧ t.results = s.results ++ results := by
  obtain ⟨t, hrun, -, hsel, -, hsink, hresults⟩ := run_events hs hes
  rw [href] at hsel hsink hresults
  exact ⟨t, hrun, hsel, hsink, hresults⟩

/-! ## Events that only write the latch -/

/-- Events that keep `sel` and put nothing out can be left out of a run, but for what they leave in the latch. -/
theorem refRun_append_of_dropped {x : Sel} {es : List Event} (fs : List Event) (ranges : List SampleRange)
    (h : ∀ e ∈ es, ∀ r, refStep x r e = ⟨x, e.shift.rangesRaw.reverse, [], none⟩) :
    ∃ r, refRun x ranges (es ++ fs) = refRun x r fs := by
  induction es generalizing ranges with
  | nil => exact ⟨ranges, rfl⟩
  | cons e rest ih =>
    obtain ⟨he, hrest⟩ := List.forall_mem_cons.1 h
    obtain ⟨r, hr⟩ := ih e.shift.rangesRaw.reverse hrest
    refine ⟨r, ?_⟩
    rw [List.cons_append, refRun, he, hr]
    rfl

/-- After an event that leaves IDLE selected and reports no frame, DR events add nothing (R67, R68): the run puts out
that event's records. -/
theorem refRun_cons_of_idle {sel : Sel} {e : Event} {es : List Event} {ranges r : List SampleRange} {rs : List Record}
    (he : refStep sel ranges e = ⟨.idle, r, rs, none⟩) (hes : ∀ x ∈ es, x.isDr = true) :
    ∃ r', refRun sel ranges (e :: es) = (.idle, r', rs, []) := by
  obtain ⟨r', hr'⟩ := refRun_append_of_dropped [] r fun x hx ranges => refStep_of_dropped (.inl rfl) ranges (hes x hx)
  rw [List.append_nil] at hr'
  refine ⟨r', ?_⟩
  rw [refRun, he, hr', refRun, List.append_nil]
  rfl

/-! ## BYPASS, IDCODE and PDICOM -/

/-- A DR event of either direction in BYPASS is recorded as it is, and leaves IDLE (R69, R70). -/
theorem refStep_bypass {e : Event} (he : e.isDr = true) (ranges : List SampleRange) :
    refStep .bypass ranges e
      = ⟨.idle, e.shift.rangesRaw.reverse, [⟨e.shift.ss, e.shift.es, .item, .bits e.shift.bits⟩], none⟩ := by
  cases e with
  | notify | ir p => cases he
  | drTdi p | drTdo p => rfl

/-- IDCODE passes over DR_TDI events, and the first DR_TDO event ends it (R71, R72, R141). -/
theorem refRun_idcode (ps : List Shift) (q : Shift) {es : List Event} (ranges : List SampleRange)
    (hes : ∀ x ∈ es, x.isDr = true) :
    ∃ r, refRun .idcode ranges (ps.map Event.drTdi ++ .drTdo q :: es)
      = (.idle, r, idcodeRecords q q.rangesRaw.reverse, []) := by
  have hps : ∀ e ∈ ps.map Event.drTdi, ∀ r, refStep .idcode r e = ⟨.idcode, e.shift.rangesRaw.reverse, [], none⟩ :=
    List.forall_mem_map.2 fun _ _ _ => rfl
  obtain ⟨r, hr⟩ := refRun_append_of_dropped (.drTdo q :: es) ranges hps
  rw [hr]
  exact refRun_cons_of_idle rfl hes

/-- A DR event in PDICOM puts out its frame's records and result, and PDICOM stays selected (R73, R74). -/
theorem refStep_pdicom_eq_frame {e : Event} (he : e.isDr = true) (ranges : List SampleRange) :
    refStep .pdicom ranges e = ⟨.pdicom, e.shift.rangesRaw.reverse, frameRecords e, some (frameResult e)⟩ := by
  cases e with
  | notify | ir p => cases he
  | drTdi p | drTdo p => rfl

/-- PDICOM stays selected over any number of DR events, and each adds its frame's records and result (R143). -/
theorem refRun_pdicom {es : List Event} (ranges : List SampleRange) (hes : ∀ e ∈ es, e.isDr = true) :
    ∃ r, refRun .pdicom ranges es = (.pdicom, r, es.flatMap frameRecords, es.map frameResult) := by
  induction es generalizing ranges with
  | nil => exact ⟨ranges, rfl⟩
  | cons e rest ih =>
    obtain ⟨he, hrest⟩ := List.forall_mem_cons.1 hes
    obtain ⟨r, hr⟩ := ih e.shift.rangesRaw.reverse hrest
    refine ⟨r, ?_⟩
    rw [refRun, refStep_pdicom_eq_frame he, hr]
    rfl

end Sys2Proof.Machine

open Sys2Proof Sys2Proof.Machine

/-- Settles O29, by induction on the events: each step is R60's step function, and its outputs go to the ends. -/
theorem runIsTheConcatenationOfItsSteps : Obligations.RunIsTheConcatenationOfItsSteps := by
  unfold Obligations.RunIsTheConcatenationOfItsSteps
  intro s es hs hes
  exact run_events hs hes

/-- Settles O40: the first DR event leaves IDLE, where the others are dropped. -/
theorem oneBypassRecordPerSelection : Obligations.OneBypassRecordPerSelection := by
  unfold Obligations.OneBypassRecordPerSelection
  intro s e es hsel hs hes
  obtain ⟨⟨-, he⟩, hrest⟩ := List.forall_mem_cons.1 hes
  obtain ⟨r, href⟩ := refRun_cons_of_idle (refStep_bypass he s.ranges) fun x hx => (hrest x hx).2
  rw [← hsel] at href
  obtain ⟨t, hrun, htsel, hsink, hresults⟩ := run_of_refRun_eq hs (fun x hx => (hes x hx).1) href
  exact ⟨t, hrun, htsel, hsink, hresults.trans (List.append_nil _)⟩

/-- Settles O41: the DR_TDI events are dropped in IDCODE, the DR_TDO event is decoded and leaves IDLE, and what follows
is dropped there. -/
theorem idcodeWaitsForTheFirstTdo : Obligations.IdcodeWaitsForTheFirstTdo := by
  unfold Obligations.IdcodeWaitsForTheFirstTdo
  intro s ps q es hsel hs hes
  have hrest : ∀ x ∈ es, x.isDr = true := fun x hx =>
    (hes x (List.mem_append_right _ (List.mem_cons_of_mem _ hx))).2
  have hlen : (ps.map Event.drTdi ++ .drTdo q :: es).length = ps.length + 1 + es.length := by
    simp [Nat.add_comm, Nat.add_left_comm]
  obtain ⟨r, href⟩ := refRun_idcode ps q s.ranges hrest
  rw [← hsel] at href
  obtain ⟨t, hrun, htsel, hsink, hresults⟩ := run_of_refRun_eq hs (fun x hx => (hes x hx).1) href
  exact ⟨t, hlen ▸ hrun, htsel, hsink, hresults.trans (List.append_nil _)⟩

/-- Settles O42: no DR event leaves PDICOM, so each of them is run through the extractor. -/
theorem pdicomPersistsOverDrEvents : Obligations.PdicomPersistsOverDrEvents := by
  unfold Obligations.PdicomPersistsOverDrEvents
  intro s es hsel hs hes
  obtain ⟨r, href⟩ := refRun_pdicom s.ranges fun e he => (hes e he).2
  rw [← hsel] at href ⊢
  exact run_of_refRun_eq hs (fun x hx => (hes x hx).1) href

/-- Settles O26: RESET is `resetSession`, which writes these four fields. -/
theorem resetForgetsTheSelection : Obligations.ResetForgetsTheSelection := by
  unfold Obligations.ResetForgetsTheSelection
  intro s
  rfl

/-- Settles O33: nothing has been emitted or reported at reset. -/
theorem resetHasOutputsOk : Obligations.ResetHasOutputsOk := by
  unfold Obligations.ResetHasOutputsOk
  exact ⟨List.forall_mem_nil _, List.suffix_rfl, Nat.zero_le 6, List.suffix_rfl⟩
end
